-- ==== Sys2Proof/Word.lean ====
section
/-! DEFINITION. The words of the block: the 32-bit command and response unit, the transport's byte, and the
alphabet symbol (spec/00_scope.md R9, R10, R12; spec/20_memory.md R49, R50). -/

namespace Sys2Proof

/-- A command word or a response word: one 32-bit unit (R9, R50). -/
abbrev Word := BitVec 32

/-- A byte of a transport that carries words as bytes (R49). -/
abbrev Byte := BitVec 8

/-- An alphabet symbol, an integer in 0..25 standing for a letter A..Z (R10). -/
abbrev Symbol := Fin 26

end Sys2Proof
end

