-- ==== Sys2Proof/Syntax.lean ====
section
/-! DEFINITION. The nine commands (spec/30_encoding.md R62, R63, R73), one constructor per row of
spec/opcode_table.json, operands in the order of the assembler notation. An operand is the unsigned integer its
field holds; whether it is legal is for the command's rule to say (R66). -/

namespace Sys2Proof

/-- A command with its operands. -/
inductive Instr where
  /-- `CONFIGURE_MACHINE m1, p1, m2, p2, m3, p3` (R140). -/
  | configureMachine (m1 p1 m2 p2 m3 p3 : Nat)
  /-- `ENCRYPT_ONE_CHAR s` (R127). -/
  | encryptOneChar (s : Nat)
  /-- `GET_ROTOR_POS slot` (R144). -/
  | getRotorPos (slot : Nat)
  /-- `SET_ROTOR slot, pos` (R142). -/
  | setRotor (slot pos : Nat)
  /-- `SET_PLUG a, b` (R81). -/
  | setPlug (a b : Nat)
  /-- `GET_PLUG a` (R83). -/
  | getPlug (a : Nat)
  /-- `CLEAR_PLUGBOARD` (R84). -/
  | clearPlugboard
  /-- `DISCONNECT a` (R85). -/
  | disconnect (a : Nat)
  /-- `IS_CONNECTED a` (R86). -/
  | isConnected (a : Nat)
  deriving DecidableEq, Repr

/-- The nine assigned opcodes, without operands (R62). -/
inductive Opcode where
  | configureMachine | encryptOneChar | getRotorPos | setRotor | setPlug | getPlug | clearPlugboard
  | disconnect | isConnected
  deriving DecidableEq, Repr

/-- The opcode of a command. -/
def Instr.opcode : Instr → Opcode
  | .configureMachine _ _ _ _ _ _ => .configureMachine
  | .encryptOneChar _ => .encryptOneChar
  | .getRotorPos _ => .getRotorPos
  | .setRotor _ _ => .setRotor
  | .setPlug _ _ => .setPlug
  | .getPlug _ => .getPlug
  | .clearPlugboard => .clearPlugboard
  | .disconnect _ => .disconnect
  | .isConnected _ => .isConnected

end Sys2Proof
end

