-- ==== Sys2Proof/WellFormed.lean ====
section
/-! DEFINITION. Which commands have a command word: every operand fits its field (spec/30_encoding.md R63, column
"encodable", and R68). This is not legality: a symbol 26..31 is encodable and illegal, and its command answers an
error (R63). -/

namespace Sys2Proof

/-- A symbol or an offset fits a 5-bit field. -/
def fitsSymbolField (v : Nat) : Bool := decide (v < 32)

/-- A model id fits a 3-bit field. -/
def fitsModelField (v : Nat) : Bool := decide (v < 8)

/-- A slot number fits a 2-bit field. -/
def fitsSlotField (v : Nat) : Bool := decide (v < 4)

/-- Every operand of the command fits its field. -/
def Instr.wellFormed : Instr → Bool
  | .configureMachine m1 p1 m2 p2 m3 p3 =>
      fitsModelField m1 && fitsSymbolField p1 && fitsModelField m2 && fitsSymbolField p2
        && fitsModelField m3 && fitsSymbolField p3
  | .encryptOneChar s => fitsSymbolField s
  | .getRotorPos slot => fitsSlotField slot
  | .setRotor slot pos => fitsSlotField slot && fitsSymbolField pos
  | .setPlug a b => fitsSymbolField a && fitsSymbolField b
  | .getPlug a => fitsSymbolField a
  | .clearPlugboard => true
  | .disconnect a => fitsSymbolField a
  | .isConnected a => fitsSymbolField a

end Sys2Proof
end

