-- ==== Sys2Proof/Decode.lean ====
section
/-! DEFINITION. The decoder, total on every word and on any bytes, and the encoder (spec/30_encoding.md R60 to R67;
byte order spec/20_memory.md R49). -/

namespace Sys2Proof

/-- `w[hi:lo]`: the unsigned integer formed by bits `hi` down to `lo` of `w` (R12). -/
def field (w : Word) (hi lo : Nat) : Nat := w.toNat / 2 ^ lo % 2 ^ (hi + 1 - lo)

/-- One row of the opcode map: the bits the format fixes (`mask`) and their values (`pattern`). -/
structure OpcodeRow where
  opcode  : Opcode
  pattern : Word
  mask    : Word
  deriving DecidableEq, Repr

/-- The opcode map of R62, row by row. -/
def opcodeTable : List OpcodeRow := [
  ⟨.configureMachine, 0x00000001#32, 0xF000000F#32⟩,
  ⟨.encryptOneChar,   0x00000002#32, 0xFFFFFE0F#32⟩,
  ⟨.getRotorPos,      0x00000003#32, 0xFFFFFFCF#32⟩,
  ⟨.setRotor,         0x00000004#32, 0xFFFFF80F#32⟩,
  ⟨.setPlug,          0x00000005#32, 0xFFFFC00F#32⟩,
  ⟨.getPlug,          0x00000006#32, 0xFFFFFE0F#32⟩,
  ⟨.clearPlugboard,   0x00000007#32, 0xFFFFFFFF#32⟩,
  ⟨.disconnect,       0x00000008#32, 0xFFFFFE0F#32⟩,
  ⟨.isConnected,      0x00000009#32, 0xFFFFFE0F#32⟩]

/-- `(w AND mask) == match` (R66). -/
def OpcodeRow.matchesWord (r : OpcodeRow) (w : Word) : Bool := w &&& r.mask == r.pattern

/-- The fields of a word, cut as the opcode's format says (R61). -/
def cutFields (op : Opcode) (w : Word) : Instr :=
  match op with
  | .configureMachine =>
      .configureMachine (field w 6 4) (field w 11 7) (field w 14 12) (field w 19 15) (field w 22 20) (field w 27 23)
  | .encryptOneChar => .encryptOneChar (field w 8 4)
  | .getRotorPos => .getRotorPos (field w 5 4)
  | .setRotor => .setRotor (field w 5 4) (field w 10 6)
  | .setPlug => .setPlug (field w 8 4) (field w 13 9)
  | .getPlug => .getPlug (field w 8 4)
  | .clearPlugboard => .clearPlugboard
  | .disconnect => .disconnect (field w 8 4)
  | .isConnected => .isConnected (field w 8 4)

/-- Why a word is an illegal command (R163). Both reasons give the same response.
DESIGN CHOICE: the spec has one outcome `Illegal`; the two names only say which clause of R163 applies. Safe. -/
inductive IllegalReason where
  /-- `OP` is 0x0 or 0xA..0xF (R65). -/
  | unassignedOpcode
  /-- The opcode is assigned and a reserved bit is set (R64). -/
  | reservedBitSet
  deriving DecidableEq, Repr

/-- What a word decodes to: exactly one of the nine commands, or `Illegal` (R66). -/
inductive Decoded where
  | command (i : Instr)
  | illegal (reason : IllegalReason)
  deriving DecidableEq, Repr

/-- `OP` is assigned: 0x1..0x9 (R62, R65). -/
def opcodeAssigned (w : Word) : Bool := decide (1 ≤ field w 3 0 ∧ field w 3 0 ≤ 9)

/-- The decoder: the first row that matches, else `Illegal` (R66). -/
def decode (w : Word) : Decoded :=
  match opcodeTable.find? (fun r => r.matchesWord w) with
  | some r => .command (cutFields r.opcode w)
  | none => .illegal (if opcodeAssigned w then .reservedBitSet else .unassignedOpcode)

/-- The command a decoded word stands for, if it stands for one. -/
def Decoded.command? : Decoded → Option Instr
  | .command i => some i
  | .illegal _ => none

/-! ### Bytes of a transport (R49): byte 0 is `w[7:0]`, byte 3 is `w[31:24]` -/

/-- The four bytes of a word, in transport order. -/
def bytesOfWord (w : Word) : List Byte :=
  [BitVec.ofNat 8 (field w 7 0), BitVec.ofNat 8 (field w 15 8), BitVec.ofNat 8 (field w 23 16),
   BitVec.ofNat 8 (field w 31 24)]

/-- The next word of a byte stream with the bytes after it; none if fewer than four bytes are left. -/
def wordOfBytes : List Byte → Option (Word × List Byte)
  | b0 :: b1 :: b2 :: b3 :: rest => some (b3 ++ b2 ++ b1 ++ b0, rest)
  | _ => none

/-- Decoding any bytes: the next command word's decoding and the bytes after it. A stream of fewer than four bytes
holds no whole word (R50: no partial words at the interface). -/
def decodeBytes (bs : List Byte) : Option (Decoded × List Byte) :=
  (wordOfBytes bs).map fun (w, rest) => (decode w, rest)

/-- The instruction the decoder reads from an instruction whose bits are `w`, numbered as the opcode table numbers
them; bits from `nbits` up are 0, and a number that does not fit is no instruction of that length. -/
def decodeTableWord (nbits w : Nat) : Option Instr :=
  if nbits ≤ 32 ∧ w < 2 ^ nbits then
    (decodeBytes (bytesOfWord (BitVec.ofNat 32 w))).bind fun (d, _) => d.command?
  else none

/-! ### The encoder (R61 to R63): the fields from bit 31 down, as R61's tables list them -/

/-- Format `N`. -/
def formatN (op : BitVec 4) : Word := 0#28 ++ op

/-- Format `S`. -/
def formatS (a : Nat) (op : BitVec 4) : Word := 0#23 ++ BitVec.ofNat 5 a ++ op

/-- Format `SS`. -/
def formatSS (b a : Nat) (op : BitVec 4) : Word := 0#18 ++ BitVec.ofNat 5 b ++ BitVec.ofNat 5 a ++ op

/-- Format `L`. -/
def formatL (slot : Nat) (op : BitVec 4) : Word := 0#26 ++ BitVec.ofNat 2 slot ++ op

/-- Format `LP`. -/
def formatLP (pos slot : Nat) (op : BitVec 4) : Word := 0#21 ++ BitVec.ofNat 5 pos ++ BitVec.ofNat 2 slot ++ op

/-- Format `C`. -/
def formatC (p3 m3 p2 m2 p1 m1 : Nat) (op : BitVec 4) : Word :=
  0#4 ++ BitVec.ofNat 5 p3 ++ BitVec.ofNat 3 m3 ++ BitVec.ofNat 5 p2 ++ BitVec.ofNat 3 m2 ++ BitVec.ofNat 5 p1
    ++ BitVec.ofNat 3 m1 ++ op

/-- The command word of a well-formed command. (Of a command that is not well formed no word exists, R68; the
host-side encoder of Machine/HostSide.lean refuses it before it comes here.) -/
def encode : Instr → Word
  | .configureMachine m1 p1 m2 p2 m3 p3 => formatC p3 m3 p2 m2 p1 m1 0x1#4
  | .encryptOneChar s => formatS s 0x2#4
  | .getRotorPos slot => formatL slot 0x3#4
  | .setRotor slot pos => formatLP pos slot 0x4#4
  | .setPlug a b => formatSS b a 0x5#4
  | .getPlug a => formatS a 0x6#4
  | .clearPlugboard => formatN 0x7#4
  | .disconnect a => formatS a 0x8#4
  | .isConnected a => formatS a 0x9#4

end Sys2Proof
end

