-- ==== Sys2Proof/Config.lean ====
section
/-! DEFINITION. What is fixed for one machine: the sizes of R6 as types, and the shape of the parameter WIRING
(spec/00_scope.md R6, R7, R11, R17; spec/20_memory.md R40). The default values of WIRING stand in
Machine/Rom.lean. No free value is needed: the spec leaves no result of any command undefined. -/

namespace Sys2Proof

/-- A rotor model id, 1..5: rotor number `m` in Roman numerals (R6 `NMODEL`, R46). -/
inductive ModelId where
  | i | ii | iii | iv | v
  deriving DecidableEq, Repr

/-- A rotor slot, 1..3. Slot 1 is the rightmost and fastest-moving (R6 `NSLOT`, R11). -/
inductive Slot where
  | one | two | three
  deriving DecidableEq, Repr

/-- A table of 26 symbols, indexed by a symbol (R6 `NSYM`). -/
abbrev Table := Vector Symbol 26

/-- The wiring table of one rotor model: permutation, inverse permutation, its single notch (R17, R40). -/
structure RotorWiring where
  forward : Table
  inverse : Table
  notch   : Symbol
  deriving DecidableEq, Repr

/-- The parameter WIRING: five rotor wirings, rotor model 1 first, and one reflector (R7, R40). -/
structure Wiring where
  rotors    : Vector RotorWiring 5
  reflector : Table
  deriving DecidableEq, Repr

/-- `MAXPAIRS`: at most 13 plug pairs can exist (R6). -/
def maxPairs : Nat := 13

end Sys2Proof
end

