-- ==== Sys2Proof/Machine/Rom.lean ====
section
/-! DEFINITION. The wiring ROM: its lookups (spec/00_scope.md R14), the laws an instance must satisfy
(spec/20_memory.md R41 to R44, R48), and the default instance WIRING_HIST (R46, R47).
PRESUMED (by the spec itself, "from general knowledge, not in source"): the contents of WIRING_HIST. Unsafe for a
claim that names an output letter; safe for a claim over every WIRING. Log entry 1. -/

namespace Sys2Proof

/-- The number of a rotor model id, 1..5 (R46). -/
def ModelId.number : ModelId → Nat
  | .i => 1 | .ii => 2 | .iii => 3 | .iv => 4 | .v => 5

/-- Where the wiring of a model stands among the five. -/
def ModelId.index : ModelId → Fin 5
  | .i => 0 | .ii => 1 | .iii => 2 | .iv => 3 | .v => 4

/-- All five model ids. -/
def allModels : List ModelId := [.i, .ii, .iii, .iv, .v]

/-- The entry of a table at a symbol. -/
def Table.lookup (t : Table) (s : Symbol) : Symbol := t[s.val]

/-- The table with the entry at a symbol replaced. -/
def Table.update (t : Table) (s x : Symbol) : Table := t.set s.val x

/-- The identity mapping: entry `s` is `s`. -/
def Table.identity : Table :=
  #v[0, 1, 2, 3, 4, 5, 6, 7, 8, 9, 10, 11, 12, 13, 14, 15, 16, 17, 18, 19, 20, 21, 22, 23, 24, 25]

/-- The wiring of a rotor model. -/
def Wiring.rotor (W : Wiring) (m : ModelId) : RotorWiring := W.rotors[m.index.val]

/-- `ROM_P(m, i)`: forward permutation of rotor model `m` at symbol `i` (R14). -/
def Wiring.romP (W : Wiring) (m : ModelId) (i : Symbol) : Symbol := Table.lookup (W.rotor m).forward i

/-- `ROM_PINV(m, i)`: inverse permutation of rotor model `m` at symbol `i` (R14). -/
def Wiring.romPinv (W : Wiring) (m : ModelId) (i : Symbol) : Symbol := Table.lookup (W.rotor m).inverse i

/-- `ROM_N(m)`: notch symbol of rotor model `m` (R14). -/
def Wiring.romN (W : Wiring) (m : ModelId) : Symbol := (W.rotor m).notch

/-- `ROM_REF(i)`: reflector at symbol `i` (R14). -/
def Wiring.romRef (W : Wiring) (i : Symbol) : Symbol := Table.lookup W.reflector i

/-- All 26 symbols, in order. -/
def allSymbols : List Symbol := Table.identity.toList

/-- Looking up every symbol in `t` and the result in `u` gives the symbol back. -/
def Table.undoes (u t : Table) : Bool := decide (t.toList.map (Table.lookup u) = allSymbols)

/-- R41 and R42 of one rotor: the inverse table undoes the forward table, and the other way round. -/
def RotorWiring.wf (r : RotorWiring) : Bool :=
  Table.undoes r.inverse r.forward && Table.undoes r.forward r.inverse

/-- R44: the reflector is an involution with no fixed point. -/
def reflectorWf (t : Table) : Bool :=
  Table.undoes t t && allSymbols.all fun i => decide (Table.lookup t i ≠ i)

/-- The instance satisfies R41 to R44 (R43, one notch symbol each, holds by its type). -/
def Wiring.wf (W : Wiring) : Bool :=
  allModels.all (fun m => (W.rotor m).wf) && reflectorWf W.reflector

/-! ### WIRING_HIST -/

/-- Rotor I (R46, R47). -/
def rotorI : RotorWiring where
  forward := #v[4, 10, 12, 5, 11, 6, 3, 16, 21, 25, 13, 19, 14, 22, 24, 7, 23, 20, 18, 15, 0, 8, 1, 17, 2, 9]
  inverse := #v[20, 22, 24, 6, 0, 3, 5, 15, 21, 25, 1, 4, 2, 10, 12, 19, 7, 23, 18, 11, 17, 8, 13, 16, 14, 9]
  notch := 16

/-- Rotor II (R46, R47). -/
def rotorII : RotorWiring where
  forward := #v[0, 9, 3, 10, 18, 8, 17, 20, 23, 1, 11, 7, 22, 19, 12, 2, 16, 6, 25, 13, 15, 24, 5, 21, 14, 4]
  inverse := #v[0, 9, 15, 2, 25, 22, 17, 11, 5, 1, 3, 10, 14, 19, 24, 20, 16, 6, 4, 13, 7, 23, 12, 8, 21, 18]
  notch := 4

/-- Rotor III (R46, R47). -/
def rotorIII : RotorWiring where
  forward := #v[1, 3, 5, 7, 9, 11, 2, 15, 17, 19, 23, 21, 25, 13, 24, 4, 8, 22, 6, 0, 10, 12, 20, 18, 16, 14]
  inverse := #v[19, 0, 6, 1, 15, 2, 18, 3, 16, 4, 20, 5, 21, 13, 25, 7, 24, 8, 23, 9, 22, 11, 17, 10, 14, 12]
  notch := 21

/-- Rotor IV (R46, R47). -/
def rotorIV : RotorWiring where
  forward := #v[4, 18, 14, 21, 15, 25, 9, 0, 24, 16, 20, 8, 17, 7, 23, 11, 13, 5, 19, 6, 10, 3, 2, 12, 22, 1]
  inverse := #v[7, 25, 22, 21, 0, 17, 19, 13, 11, 6, 20, 15, 23, 16, 2, 4, 9, 12, 1, 18, 10, 3, 24, 14, 8, 5]
  notch := 9

/-- Rotor V (R46, R47). -/
def rotorV : RotorWiring where
  forward := #v[21, 25, 1, 17, 6, 8, 19, 24, 20, 15, 18, 3, 13, 7, 11, 23, 0, 22, 12, 9, 16, 14, 5, 4, 2, 10]
  inverse := #v[16, 2, 24, 11, 23, 22, 4, 13, 5, 19, 25, 14, 18, 12, 21, 9, 20, 3, 10, 6, 8, 0, 17, 15, 7, 1]
  notch := 25

/-- Reflector B (R46). -/
def reflectorB : Table :=
  #v[24, 17, 20, 7, 16, 18, 11, 3, 15, 23, 13, 6, 14, 10, 12, 8, 4, 1, 5, 25, 2, 22, 21, 9, 0, 19]

/-- The default instance WIRING_HIST (R7, R46). -/
def wiringHist : Wiring where
  rotors := #v[rotorI, rotorII, rotorIII, rotorIV, rotorV]
  reflector := reflectorB

end Sys2Proof
end

