-- ==== Sys2Proof/Machine/State.lean ====
section
/-! DEFINITION. The state of the machine as plain data (spec/10_state.md R20 to R31), the reasons a step can stop,
and the state right after reset (spec/70_reset_and_hazards.md R180). -/

namespace Sys2Proof.Machine

/-- One slot's rotor instance: `model[k]` and `off[k]` (R17, R21, R22). -/
structure Rotor where
  model : ModelId
  off   : Symbol
  deriving DecidableEq, Repr

/-- The machine configuration: the whole architectural state, "{3 rotor instances, plugboard state}" (R20).
The fields hold only legal values, as R20 lets a model type them: `model[k]` is 1..5 and `off[k]`, `plug[s]` are
0..25 by type (log entry 7). That `plug` is an involution (I-PLUG-INV, R26) is an invariant, in Safety.lean. -/
structure Configuration where
  /-- Slot 1: rightmost, fastest-moving (R11). -/
  rotor1 : Rotor
  /-- Slot 2: the middle. -/
  rotor2 : Rotor
  /-- Slot 3: leftmost. -/
  rotor3 : Rotor
  /-- `plug[s]`: the plugboard partner of each symbol (R23). -/
  plug   : Table
  deriving DecidableEq, Repr

/-- What the outside can present to the block: a command word at the command port, or the reset input asserted
between commands (R9, R180, R181). -/
inductive HostInput where
  | command (w : Word)
  | reset
  deriving DecidableEq, Repr

/-- The state of the machine.
DESIGN CHOICE (log entries 1, 2, 3): the parameter WIRING and the two ports stand beside the configuration. -/
structure State where
  /-- The wiring ROM (R40), the parameter WIRING (R7). Nothing writes it (R45). -/
  rom       : Wiring
  /-- The architectural state (R20). -/
  config    : Configuration
  /-- The host's inputs not yet taken, oldest first: the command stream and assertions of reset. -/
  inputs    : List HostInput
  /-- The response words returned so far, oldest first (R69). -/
  responses : List Word
  deriving DecidableEq, Repr

/-- The machine never stops with a fault: an error is "a normal, defined outcome of the step function", "not a model
fault, stuck state or refusal" (R176), so this type has no constructor. -/
inductive Fault where
  deriving DecidableEq, Repr

/-- Why the model gives no next state. -/
inductive Refusal where
  /-- Raised by an arm of `exec` for an instruction that has no meaning yet. Safe. (No arm raises it.) -/
  | notModelled (mnemonic : String)
  /-- Raised by `step` when the parameter WIRING breaks the laws R41 to R44: such an instance "is refused, not run"
  (R48, U6). Safe. -/
  | illFormedWiring
  deriving DecidableEq, Repr

/-- The STATUS of a response (R71). -/
inductive Status where
  | ok | configurationError | invalidSymbolError | illegalCommand
  deriving DecidableEq, Repr

/-- What a command can raise (R15): the STATUS values other than `OK`. -/
inductive ErrorClass where
  | configurationError | invalidSymbolError | illegalCommand
  deriving DecidableEq, Repr

/-- The default configuration: slot `k` holds model `k` at offset 0, and the plugboard is empty (R30, R180, C7). -/
def Configuration.reset : Configuration where
  rotor1 := ⟨.i, 0⟩
  rotor2 := ⟨.ii, 0⟩
  rotor3 := ⟨.iii, 0⟩
  plug := Table.identity

/-- The machine right after reset: the default configuration (R180), the default wiring (R7), nothing presented and
nothing answered. -/
def State.reset : State where
  rom := wiringHist
  config := Configuration.reset
  inputs := []
  responses := []

end Sys2Proof.Machine
end

