-- ==== Sys2Proof/Machine/Operands.lean ====
section
/-! DEFINITION. Operands: the ranges of spec/00_scope.md R16 (DOC0's), what a legal operand names, and which error
class each operand raises (spec/60_exceptions.md R162). An illegal operand is never clamped or wrapped (R167). -/

namespace Sys2Proof.Machine

/-- `is_sym(v)`: 0..25; also the range of an offset (R16). -/
def isSym (v : Nat) : Bool := decide (v ≤ 25)

/-- `is_model(v)`: 1..5 (R16). -/
def isModel (v : Nat) : Bool := decide (1 ≤ v ∧ v ≤ 5)

/-- `is_slot(v)`: 1..3 (R16). -/
def isSlot (v : Nat) : Bool := decide (1 ≤ v ∧ v ≤ 3)

/-- The symbol (or offset) an operand names; none if it is outside 0..25. -/
def symbol? (v : Nat) : Option Symbol := if h : v < 26 then some ⟨v, h⟩ else none

/-- The rotor model an operand names; none if it is outside 1..5. -/
def model? : Nat → Option ModelId
  | 1 => some .i
  | 2 => some .ii
  | 3 => some .iii
  | 4 => some .iv
  | 5 => some .v
  | _ => none

/-- The slot an operand names; none if it is outside 1..3. -/
def slot? : Nat → Option Slot
  | 1 => some .one
  | 2 => some .two
  | 3 => some .three
  | _ => none

/-- Every operand of the command is in the range DOC0 gives it (R63, column "legal"). -/
def operandsLegal : Instr → Bool
  | .configureMachine m1 p1 m2 p2 m3 p3 =>
      isModel m1 && isModel m2 && isModel m3 && isSym p1 && isSym p2 && isSym p3
  | .encryptOneChar s => isSym s
  | .getRotorPos slot => isSlot slot
  | .setRotor slot pos => isSlot slot && isSym pos
  | .setPlug a b => isSym a && isSym b
  | .getPlug a => isSym a
  | .clearPlugboard => true
  | .disconnect a => isSym a
  | .isConnected a => isSym a

/-- The class a command raises for an illegal operand; none for the command without operands (R161, R162). -/
def operandErrorClass : Instr → Option ErrorClass
  | .configureMachine _ _ _ _ _ _ | .getRotorPos _ | .setRotor _ _ => some .configurationError
  | .encryptOneChar _ | .setPlug _ _ | .getPlug _ | .disconnect _ | .isConnected _ => some .invalidSymbolError
  | .clearPlugboard => none

end Sys2Proof.Machine
end

