-- ==== Sys2Proof/Machine/Ops.lean ====
section
/-! DEFINITION. The named operations: arithmetic mod 26 (spec/00_scope.md R10), the state accessors of R13, the
response word and how a command ends (R15; spec/30_encoding.md R70, R71), raising an error (the machine's only
exception, spec/60_exceptions.md R160 to R166), and taking a reset (spec/70_reset_and_hazards.md R180, R181). -/

namespace Sys2Proof.Machine

/-- What `exec` and `step` answer. -/
abbrev Result := Host.Outcome State Fault Refusal

/-! ### Arithmetic -/

/-- `(v) mod 26`: the mathematical remainder in 0..25 of any integer, also a negative one (R10). -/
def mod26 (v : Int) : Symbol := ⟨(v % 26).toNat, by omega⟩

/-- A symbol or offset as an integer. -/
def toInt (x : Symbol) : Int := (x.val : Int)

/-! ### Accessors (R13) -/

/-- The rotor instance in slot `k`. -/
def Configuration.rotor (c : Configuration) : Slot → Rotor
  | .one => c.rotor1
  | .two => c.rotor2
  | .three => c.rotor3

/-- The configuration with the rotor instance of slot `k` replaced. -/
def Configuration.withRotor (c : Configuration) (k : Slot) (r : Rotor) : Configuration :=
  match k with
  | .one => { c with rotor1 := r }
  | .two => { c with rotor2 := r }
  | .three => { c with rotor3 := r }

/-- `model[k]`. -/
def State.model (s : State) (k : Slot) : ModelId := (s.config.rotor k).model

/-- `off[k]`. -/
def State.off (s : State) (k : Slot) : Symbol := (s.config.rotor k).off

/-- `plug[x]`. -/
def State.plug (s : State) (x : Symbol) : Symbol := Table.lookup s.config.plug x

/-- `model[k] <- m ; off[k] <- o`. -/
def State.setRotorInstance (s : State) (k : Slot) (m : ModelId) (o : Symbol) : State :=
  { s with config := s.config.withRotor k ⟨m, o⟩ }

/-- `off[k] <- o`. -/
def State.setOff (s : State) (k : Slot) (o : Symbol) : State := s.setRotorInstance k (s.model k) o

/-- `plug[x] <- y`. -/
def State.setPlug (s : State) (x y : Symbol) : State :=
  { s with config := { s.config with plug := Table.update s.config.plug x y } }

/-- `for s in 0..25: plug[s] <- s`. -/
def State.clearPlugs (s : State) : State := { s with config := { s.config with plug := Table.identity } }

/-! ### Ending a command -/

/-- The code of a status (R71). -/
def Status.code : Status → BitVec 2
  | .ok => 0#2
  | .configurationError => 1#2
  | .invalidSymbolError => 2#2
  | .illegalCommand => 3#2

/-- The status an error is reported with (R161). -/
def ErrorClass.status : ErrorClass → Status
  | .configurationError => .configurationError
  | .invalidSymbolError => .invalidSymbolError
  | .illegalCommand => .illegalCommand

/-- `zext_32({data[4:0], status[1:0]})` (R70). -/
def responseWord (status : Status) (data : BitVec 5) : Word := (data ++ status.code).zeroExtend 32

/-- A symbol or offset in the DATA field: zero-extended, never sign-extended (R72, R149). -/
def dataOfSymbol (x : Symbol) : BitVec 5 := BitVec.ofNat 5 x.val

/-- A yes or no in the DATA field (R86, D26). -/
def dataOfBool (b : Bool) : BitVec 5 := if b then 1#5 else 0#5

/-- The response word is returned to the host (R69). -/
def State.pushResponse (s : State) (r : Word) : State := { s with responses := s.responses ++ [r] }

/-- `respond(status, data)`: ends a command (R15). -/
def respond (status : Status) (data : BitVec 5) (s : State) : Result :=
  .next (s.pushResponse (responseWord status data))

/-- `raise E`: ends a command with status `E` and DATA 0 and writes no state (R15). TAKING THE MACHINE'S ONLY KIND OF
EXCEPTION: nothing is saved, no mode or mask changes and control goes nowhere (R165). There is no return from an
error, since there is nothing to restore (R166): the next command is simply the next step. -/
def raise (e : ErrorClass) (s : State) : Result := respond e.status 0#5 s

/-! ### The reset input -/

/-- Reset is asserted between two commands: every piece of architectural state takes its reset value; the ROM is not
touched, and there is no response (R180, R181). What the host has still to present and what it has been answered are
the host's (log entry 6). -/
def State.takeReset (s : State) : State := { s with config := Configuration.reset }

end Sys2Proof.Machine
end

