-- ==== Sys2Proof/Machine/Flags.lean ====
section
/-! DEFINITION. The block has no flags, condition codes or status register (spec/10_state.md R25). The only flags the
spec computes are the two notch flags inside `STEP()` (spec/42_stepping.md R100): local to one command, kept in no
state. Also here: the observation of a response's STATUS and DATA (spec/30_encoding.md R70, spec/60_exceptions.md
R176). -/

namespace Sys2Proof.Machine

/-- The rotor in slot `k` stands at its notch: `off[k] == ROM_N(model[k])` (R100). -/
def atNotch (s : State) (k : Slot) : Bool := decide (s.off k = s.rom.romN (s.model k))

/-- STATUS, bits 1..0 of a response word (R70, R71). -/
def statusOf (r : Word) : Status :=
  match (r.toNat % 4 : Nat) with
  | 0 => .ok
  | 1 => .configurationError
  | 2 => .invalidSymbolError
  | _ => .illegalCommand

/-- DATA, bits 6..2 of a response word (R70). -/
def dataOf (r : Word) : Nat := r.toNat / 4 % 32

end Sys2Proof.Machine
end

