-- ==== Sys2Proof/Machine/Stepping.lean ====
section
/-! DEFINITION. The stepping mechanism, the micro-operation `STEP()` (spec/42_stepping.md R100 to R111): the canonical
formulation, as 90_conflicts.md C1 and C2 decide. It is no command of its own (R104). -/

namespace Sys2Proof.Machine

/-- One rotor's step: `offset := (offset + 1) mod 26` (R101). -/
def nextOffset (o : Symbol) : Symbol := mod26 (toInt o + 1)

/-- Slot `k` steps if `cond` holds. -/
def stepSlotIf (cond : Bool) (k : Slot) (s : State) : State :=
  if cond then s.setOff k (nextOffset (s.off k)) else s

/-- `STEP()`: both flags are sensed on the offsets as they stand before any stepping (R100) and are not recomputed
after a write (R101). Slot 1 carries slot 2, slot 2 carries slot 3 (R111); rotor 3's notch is never read (R106). -/
def stepRotors (s : State) : State :=
  let r1AtNotch := atNotch s .one
  let r2AtNotch := atNotch s .two
  stepSlotIf r2AtNotch .three (stepSlotIf (r1AtNotch || r2AtNotch) .two (stepSlotIf true .one s))

end Sys2Proof.Machine
end

