-- ==== Sys2Proof/Machine/Cipher.lean ====
section
/-! DEFINITION. The cipher path and `ENCRYPT_ONE_CHAR` (spec/43_cipher_path.md R120 to R132). -/

namespace Sys2Proof.Machine

/-- `fwd(k, x) = (ROM_P(model[k], (x + off[k]) mod 26) - off[k]) mod 26` (R120). -/
def fwd (s : State) (k : Slot) (x : Symbol) : Symbol :=
  mod26 (toInt (s.rom.romP (s.model k) (mod26 (toInt x + toInt (s.off k)))) - toInt (s.off k))

/-- `inv(k, x) = (ROM_PINV(model[k], (x + off[k]) mod 26) - off[k]) mod 26` (R121). -/
def inv (s : State) (k : Slot) (x : Symbol) : Symbol :=
  mod26 (toInt (s.rom.romPinv (s.model k) (mod26 (toInt x + toInt (s.off k)))) - toInt (s.off k))

/-- The forward pass: slot 1, then slot 2, then slot 3 (R124). -/
def cascadeFwd (s : State) (x : Symbol) : Symbol := fwd s .three (fwd s .two (fwd s .one x))

/-- The return pass: slot 3, then slot 2, then slot 1, each inverse (R125). -/
def cascadeInv (s : State) (y : Symbol) : Symbol := inv s .one (inv s .two (inv s .three y))

/-- The nine substitutions at the offsets of `s`: plugboard, rotors, reflector, rotors, plugboard (R126, R127). -/
def substitute (s : State) (x : Symbol) : Symbol :=
  s.plug (cascadeInv s (s.rom.romRef (cascadeFwd s (s.plug x))))

/-- `ENCRYPT_ONE_CHAR s` (R127): step first, then substitute at the stepped offsets; a bad symbol does not step
(R129). -/
def execEncryptOneChar (a : Nat) (s : State) : Result :=
  match symbol? a with
  | some x => respond .ok (dataOfSymbol (substitute (stepRotors s) x)) (stepRotors s)
  | none => raise .invalidSymbolError s

end Sys2Proof.Machine
end

