-- ==== Sys2Proof/Machine/Plugboard.lean ====
section
/-! DEFINITION. The five plugboard commands (spec/41_plugboard.md R80 to R89). They touch no rotor state (R88). -/

namespace Sys2Proof.Machine

/-- Unplug a symbol and its partner: `let c = plug[a]; plug[c] <- c; plug[a] <- a` (R85). -/
def breakPair (a : Symbol) (s : State) : State :=
  let c := s.plug a
  (s.setPlug c c).setPlug a a

/-- Break the old pairs of two different symbols, then pair them (R81, branch `a != b`). -/
def joinPair (a b : Symbol) (s : State) : State :=
  let c := s.plug a
  let d := s.plug b
  (((s.setPlug c c).setPlug d d).setPlug a b).setPlug b a

/-- `SET_PLUG a, b` (R81); with `a == b` it disconnects `a` and never toggles (R87). -/
def execSetPlug (a b : Nat) (s : State) : Result :=
  match symbol? a, symbol? b with
  | some a, some b => respond .ok 0#5 (if a = b then breakPair a s else joinPair a b s)
  | _, _ => raise .invalidSymbolError s

/-- `GET_PLUG a` (R83). -/
def execGetPlug (a : Nat) (s : State) : Result :=
  match symbol? a with
  | some a => respond .ok (dataOfSymbol (s.plug a)) s
  | none => raise .invalidSymbolError s

/-- `CLEAR_PLUGBOARD` (R84). -/
def execClearPlugboard (s : State) : Result := respond .ok 0#5 s.clearPlugs

/-- `DISCONNECT a` (R85). -/
def execDisconnect (a : Nat) (s : State) : Result :=
  match symbol? a with
  | some a => respond .ok 0#5 (breakPair a s)
  | none => raise .invalidSymbolError s

/-- `IS_CONNECTED a` (R86). -/
def execIsConnected (a : Nat) (s : State) : Result :=
  match symbol? a with
  | some a => respond .ok (dataOfBool (decide (s.plug a ≠ a))) s
  | none => raise .invalidSymbolError s

end Sys2Proof.Machine
end

