-- ==== Sys2Proof/Machine/Rotors.lean ====
section
/-! DEFINITION. The three rotor commands (spec/44_configuration.md R140 to R146). They leave the plugboard alone
(R146), and none of them steps a rotor. Every operand is checked before anything is written (R141). -/

namespace Sys2Proof.Machine

/-- `CONFIGURE_MACHINE m1, p1, m2, p2, m3, p3` (R140); the same model may stand in several slots (R145). -/
def execConfigureMachine (m1 p1 m2 p2 m3 p3 : Nat) (s : State) : Result :=
  match model? m1, symbol? p1, model? m2, symbol? p2, model? m3, symbol? p3 with
  | some m1, some p1, some m2, some p2, some m3, some p3 =>
      respond .ok 0#5
        (((s.setRotorInstance .one m1 p1).setRotorInstance .two m2 p2).setRotorInstance .three m3 p3)
  | _, _, _, _, _, _ => raise .configurationError s

/-- `GET_ROTOR_POS slot` (R144). -/
def execGetRotorPos (slot : Nat) (s : State) : Result :=
  match slot? slot with
  | some k => respond .ok (dataOfSymbol (s.off k)) s
  | none => raise .configurationError s

/-- `SET_ROTOR slot, pos` (R142). -/
def execSetRotor (slot pos : Nat) (s : State) : Result :=
  match slot? slot, symbol? pos with
  | some k, some o => respond .ok 0#5 (s.setOff k o)
  | _, _ => raise .configurationError s

end Sys2Proof.Machine
end

