-- ==== Sys2Proof/Machine/Dispatch.lean ====
section
/-! DEFINITION. One arm per command (spec/30_encoding.md R62). -/

namespace Sys2Proof.Machine

def exec (i : Instr) (s : State) : Host.Outcome State Fault Refusal :=
  match i with
  | .configureMachine m1 p1 m2 p2 m3 p3 => Sys2Proof.Machine.execConfigureMachine m1 p1 m2 p2 m3 p3 s
  | .encryptOneChar a => Sys2Proof.Machine.execEncryptOneChar a s
  | .getRotorPos slot => Sys2Proof.Machine.execGetRotorPos slot s
  | .setRotor slot pos => Sys2Proof.Machine.execSetRotor slot pos s
  | .setPlug a b => Sys2Proof.Machine.execSetPlug a b s
  | .getPlug a => Sys2Proof.Machine.execGetPlug a s
  | .clearPlugboard => Sys2Proof.Machine.execClearPlugboard s
  | .disconnect a => Sys2Proof.Machine.execDisconnect a s
  | .isConnected a => Sys2Proof.Machine.execIsConnected a s

end Sys2Proof.Machine
end

