-- ==== Sys2Proof/Machine/Transaction.lean ====
section
/-! DEFINITION. One transaction and one input of the block (spec/00_scope.md R9, spec/10_state.md R32,
spec/60_exceptions.md R164): everything `step` does, so that Step.lean only calls it. -/

namespace Sys2Proof.Machine

/-- The engine performs one command word. The decode check comes first (R164): an illegal word raises
`IllegalCommand` before any operand is looked at (R163). -/
def performWord (w : Word) (s : State) : Result :=
  match decode w with
  | .command i => exec i s
  | .illegal _ => raise .illegalCommand s

/-- The block takes the next input. With none presented it waits, and its state does not change (R65, R186; log
entry 4). -/
def takeInput (s : State) : Result :=
  match s.inputs with
  | [] => .next s
  | .command w :: rest => performWord w { s with inputs := rest }
  | .reset :: rest => .next ({ s with inputs := rest }).takeReset

/-- One step of a machine with any WIRING: an instance that breaks the laws R41 to R44 is refused, not run (R48). -/
def stepMachine (s : State) : Result :=
  if s.rom.wf then takeInput s else .refused .illFormedWiring

/-- The next state of a result, if it has one. -/
def nextState? : Result → Option State
  | .next s => some s
  | .fault _ => none
  | .refused _ => none

/-- R32's step function `step : WIRING → State → Word32 → State × Word32`, read off the machine: the configuration
after one command word and the response to it. It is none only for a WIRING that is refused. -/
def transact (W : Wiring) (c : Configuration) (w : Word) : Option (Configuration × Word) :=
  (nextState? (stepMachine { rom := W, config := c, inputs := [.command w], responses := [] })).bind fun t =>
    t.responses.head?.map fun r => (t.config, r)

/-- R32's run over a command stream: the left fold of the step function, with the responses in order. -/
def runStream (W : Wiring) (c : Configuration) : List Word → Option (Configuration × List Word)
  | [] => some (c, [])
  | w :: ws =>
    (transact W c w).bind fun (c', r) => (runStream W c' ws).map fun (c'', rs) => (c'', r :: rs)

end Sys2Proof.Machine
end

