-- ==== Sys2Proof/Machine/Step.lean ====
section
/-! DEFINITION. The step of the machine, and how one command word is put where the next step takes it
(spec/00_scope.md R9; log entry 5). -/

namespace Sys2Proof.Machine

/-- One step: the block takes the next input from the host and performs it. -/
def step (s : State) : Host.Outcome State Fault Refusal := stepMachine s

/-- The state with one command word presented at the command port, ahead of what the host has still to present. The
block fetches nothing (R24, R58): presenting the word is all its execution takes. -/
def State.withFetchWord (s : State) (nbits w : Nat) : State :=
  { s with inputs := .command (BitVec.ofNat 32 (w % 2 ^ nbits)) :: s.inputs }

end Sys2Proof.Machine
end

