-- ==== Sys2Proof/Machine/HostSide.lean ====
section
/-! DEFINITION. The host's side of the command port: the encoder that never truncates an argument
(spec/30_encoding.md R68, D23), the assembler notation and the pseudo-instructions (R73, D21). Nothing here is part of
the engine; the conventions R73 leaves open are in log entry 11. -/

namespace Sys2Proof.Machine

/-! ### Host-side encoder (R68) -/

/-- A call of one of the block's operations with the integers a host may pass, also negative or too large ones. -/
inductive HostCall where
  | configureMachine (m1 p1 m2 p2 m3 p3 : Int)
  | encryptOneChar (s : Int)
  | getRotorPos (slot : Int)
  | setRotor (slot pos : Int)
  | setPlug (a b : Int)
  | getPlug (a : Int)
  | clearPlugboard
  | disconnect (a : Int)
  | isConnected (a : Int)
  deriving DecidableEq, Repr

/-- The argument fits a field of the given width (R68). -/
def fitsField (width : Nat) (v : Int) : Bool := decide (0 ≤ v ∧ v < 2 ^ width)

/-- The argument as a field value, or the error class its operand raises (R68, R162). -/
def fieldArg (width : Nat) (e : ErrorClass) (v : Int) : Except ErrorClass Nat :=
  if fitsField width v then .ok v.toNat else .error e

/-- A symbol argument. -/
def symbolArg (v : Int) : Except ErrorClass Nat := fieldArg 5 .invalidSymbolError v

/-- A position argument. -/
def positionArg (v : Int) : Except ErrorClass Nat := fieldArg 5 .configurationError v

/-- A model argument. -/
def modelArg (v : Int) : Except ErrorClass Nat := fieldArg 3 .configurationError v

/-- A slot argument. -/
def slotArg (v : Int) : Except ErrorClass Nat := fieldArg 2 .configurationError v

/-- The command of a call whose arguments fit their fields; otherwise the error class, and nothing is sent. -/
def HostCall.toInstr : HostCall → Except ErrorClass Instr
  | .configureMachine m1 p1 m2 p2 m3 p3 => do
      return .configureMachine (← modelArg m1) (← positionArg p1) (← modelArg m2) (← positionArg p2)
        (← modelArg m3) (← positionArg p3)
  | .encryptOneChar s => return .encryptOneChar (← symbolArg s)
  | .getRotorPos slot => return .getRotorPos (← slotArg slot)
  | .setRotor slot pos => return .setRotor (← slotArg slot) (← positionArg pos)
  | .setPlug a b => return .setPlug (← symbolArg a) (← symbolArg b)
  | .getPlug a => return .getPlug (← symbolArg a)
  | .clearPlugboard => return .clearPlugboard
  | .disconnect a => return .disconnect (← symbolArg a)
  | .isConnected a => return .isConnected (← symbolArg a)

/-- The command word of a call, or the error class the host-side encoder reports itself (R68). -/
def hostEncode (c : HostCall) : Except ErrorClass Word := c.toInstr.map encode

/-- The call a command stands for: its operands as integers. -/
def callOf : Instr → HostCall
  | .configureMachine m1 p1 m2 p2 m3 p3 => .configureMachine m1 p1 m2 p2 m3 p3
  | .encryptOneChar s => .encryptOneChar s
  | .getRotorPos slot => .getRotorPos slot
  | .setRotor slot pos => .setRotor slot pos
  | .setPlug a b => .setPlug a b
  | .getPlug a => .getPlug a
  | .clearPlugboard => .clearPlugboard
  | .disconnect a => .disconnect a
  | .isConnected a => .isConnected a

/-! ### Pseudo-instructions (R73) -/

/-- What a line of the notation can say: a command, or a pseudo-instruction. -/
inductive AsmItem where
  | command (c : HostCall)
  | connect (a b : Int)
  | resetMachine
  | encryptText (text : List Symbol)
  | setPositions (p1 p2 p3 : Int)
  deriving DecidableEq, Repr

/-- Why the assembler rejects a line. -/
inductive AsmError where
  /-- The line is not of the notation. -/
  | malformed
  /-- `CONNECT a, a` (R73: "assembler rejects `a == b`"). -/
  | connectSameLetter
  /-- An argument does not fit its field (R68). -/
  | argument (e : ErrorClass)
  deriving DecidableEq, Repr

/-- The commands a line stands for, in order (R73).
DESIGN CHOICE (log entry 11), safe: `CONNECT a, a` is rejected as such before its arguments are fitted to fields, so
also `CONNECT 40, 40`, where R68 would report InvalidSymbolError; the spec gives no order of the two checks. Either way no
word is sent. -/
def AsmItem.expand : AsmItem → Except AsmError (List HostCall)
  | .command c => .ok [c]
  | .connect a b => if a = b then .error .connectSameLetter else .ok [.setPlug a b]
  | .resetMachine => .ok [.configureMachine 1 0 2 0 3 0, .clearPlugboard]
  | .encryptText text => .ok (text.map fun x => .encryptOneChar (x.val : Int))
  | .setPositions p1 p2 p3 => .ok [.setRotor 1 p1, .setRotor 2 p2, .setRotor 3 p3]

/-- The words of a list of calls, or the first error class.
DESIGN CHOICE (log entry 11), safe: one argument of a line that fits no field drops every word of the line, also
those of earlier commands (`SET_POSITIONS 1, 40, 2` sends nothing, R68). R73's "the earlier ones stay done" is of commands that
were sent; whether an earlier command of such a line is still sent the spec does not say. -/
def encodeCalls : List HostCall → Except AsmError (List Word)
  | [] => .ok []
  | c :: cs =>
    match hostEncode c with
    | .error e => .error (.argument e)
    | .ok w => (encodeCalls cs).map (w :: ·)

/-! ### The notation (R73) -/

/-- A letter `A`..`Z` as its symbol. -/
def letterSymbol? (ch : Char) : Option Symbol :=
  if h : 65 ≤ ch.toNat ∧ ch.toNat < 91 then some ⟨ch.toNat - 65, by omega⟩ else none

/-- A decimal digit as its value. -/
def digit? (ch : Char) : Option Nat := if 48 ≤ ch.toNat ∧ ch.toNat ≤ 57 then some (ch.toNat - 48) else none

/-- Decimal digits, read onto what has been read so far. -/
def decimalFrom (acc : Nat) : List Char → Option Nat
  | [] => some acc
  | ch :: chs => (digit? ch).bind fun d => decimalFrom (10 * acc + d) chs

/-- A decimal number: at least one digit. -/
def decimal? : List Char → Option Nat
  | [] => none
  | chs => decimalFrom 0 chs

/-- A symbol operand: a letter or a decimal number. -/
def symbolOperand? : List Char → Option Int
  | [ch] =>
    match letterSymbol? ch with
    | some x => some (x.val : Int)
    | none => (decimal? [ch]).map Int.ofNat
  | chs => (decimal? chs).map Int.ofNat

/-- Any other operand: a decimal number. -/
def numberOperand? (chs : List Char) : Option Int := (decimal? chs).map Int.ofNat

/-- White space of the notation. -/
def isBlank (ch : Char) : Bool := ch == ' ' || ch == '\t'

/-- The text without blanks at either end. -/
def trimBlanks (chs : List Char) : List Char :=
  ((chs.dropWhile isBlank).reverse.dropWhile isBlank).reverse

/-- The pieces between commas. -/
def splitAtCommas : List Char → List (List Char)
  | [] => [[]]
  | ch :: chs =>
    match splitAtCommas chs with
    | [] => [[ch]]
    | p :: ps => if ch == ',' then [] :: p :: ps else (ch :: p) :: ps

/-- The operands of a line: none at all, or comma-separated pieces without the blanks around them. -/
def operandTexts (chs : List Char) : List (List Char) :=
  match trimBlanks chs with
  | [] => []
  | t => (splitAtCommas t).map trimBlanks

/-- The letters between two double quotes. -/
def quotedLetters? : List Char → Option (List Symbol)
  | '"' :: chs =>
    match chs.reverse with
    | '"' :: inside => inside.reverse.mapM letterSymbol?
    | _ => none
  | _ => none

/-- The names of the notation: the nine mnemonics and the four pseudo-instructions. -/
inductive AsmName where
  | core (op : Opcode)
  | connect | resetMachine | encryptText | setPositions
  deriving DecidableEq, Repr

/-- The names as they are spelled (R73). -/
def asmNames : List (String × AsmName) := [
  ("CONFIGURE_MACHINE", .core .configureMachine), ("ENCRYPT_ONE_CHAR", .core .encryptOneChar),
  ("GET_ROTOR_POS", .core .getRotorPos), ("SET_ROTOR", .core .setRotor), ("SET_PLUG", .core .setPlug),
  ("GET_PLUG", .core .getPlug), ("CLEAR_PLUGBOARD", .core .clearPlugboard), ("DISCONNECT", .core .disconnect),
  ("IS_CONNECTED", .core .isConnected), ("CONNECT", .connect), ("RESET_MACHINE", .resetMachine),
  ("ENCRYPT_TEXT", .encryptText), ("SET_POSITIONS", .setPositions)]

/-- The item a name and its operand texts stand for (R73: operands in the order of DOC0's Inputs column). -/
def parseOperands (name : AsmName) (ops : List (List Char)) : Option AsmItem :=
  match name, ops with
  | .core .configureMachine, [m1, p1, m2, p2, m3, p3] => do
      return .command (.configureMachine (← numberOperand? m1) (← numberOperand? p1) (← numberOperand? m2)
        (← numberOperand? p2) (← numberOperand? m3) (← numberOperand? p3))
  | .core .encryptOneChar, [s] => return .command (.encryptOneChar (← symbolOperand? s))
  | .core .getRotorPos, [k] => return .command (.getRotorPos (← numberOperand? k))
  | .core .setRotor, [k, p] => return .command (.setRotor (← numberOperand? k) (← numberOperand? p))
  | .core .setPlug, [a, b] => return .command (.setPlug (← symbolOperand? a) (← symbolOperand? b))
  | .core .getPlug, [a] => return .command (.getPlug (← symbolOperand? a))
  | .core .clearPlugboard, [] => some (.command .clearPlugboard)
  | .core .disconnect, [a] => return .command (.disconnect (← symbolOperand? a))
  | .core .isConnected, [a] => return .command (.isConnected (← symbolOperand? a))
  | .connect, [a, b] => return .connect (← symbolOperand? a) (← symbolOperand? b)
  | .resetMachine, [] => some .resetMachine
  | .encryptText, [t] => return .encryptText (← quotedLetters? t)
  | .setPositions, [p1, p2, p3] =>
      return .setPositions (← numberOperand? p1) (← numberOperand? p2) (← numberOperand? p3)
  | _, _ => none

/-- The words of one line of the notation. A comment starts with `;`; a line with nothing before it stands for no
word. -/
def assembleLine (line : List Char) : Except AsmError (List Word) :=
  match trimBlanks (line.takeWhile (· != ';')) with
  | [] => .ok []
  | text =>
    let nameText := text.takeWhile fun ch => !isBlank ch
    match asmNames.find? fun p => p.1.toList == nameText with
    | none => .error .malformed
    | some (_, name) =>
      match parseOperands name (operandTexts (text.drop nameText.length)) with
      | none => .error .malformed
      | some item =>
        match item.expand with
        | .error e => .error e
        | .ok calls => encodeCalls calls

end Sys2Proof.Machine
end

