-- ==== Sys2Proof/Machine/Instances.lean ====
section
/-! DEFINITION. Several instances of the block side by side (spec/60_exceptions.md R173): each has its own state, and
a step of one is a step of that one alone. -/

namespace Sys2Proof.Machine

/-- Instance `k` takes a step; the others wait. -/
def stepInstance (instances : List State) (k : Fin instances.length) :
    Host.Outcome (List State) Fault Refusal :=
  match step instances[k.val] with
  | .next t => .next (instances.set k.val t)
  | .fault r => .fault r
  | .refused r => .refused r

end Sys2Proof.Machine
end

