-- ==== Sys2Proof/Safety.lean ====
section
/-! DEFINITION. What a good state and a good run are, in the terms the statements use: the laws of WIRING
(spec/20_memory.md R41 to R44), the invariants of spec/10_state.md R26, and an error-free run (spec/60_exceptions.md
R176). -/

namespace Sys2Proof.Machine

/-- R41 to R44 as they are stated: bijections, inverses, and an involution with no fixed point. (R43: each model has
exactly one notch symbol, by the type of `romN`.) -/
structure Lawful (W : Wiring) : Prop where
  forward_bijective : ∀ m, Function.Bijective (W.romP m)
  inverse_forward : ∀ m i, W.romPinv m (W.romP m i) = i
  forward_inverse : ∀ m j, W.romP m (W.romPinv m j) = j
  reflector_involutive : ∀ i, W.romRef (W.romRef i) = i
  reflector_no_fixed_point : ∀ i, W.romRef i ≠ i

/-- I-PLUG-INV: the mapping is its own inverse (R26). -/
def PlugInvolutive (t : Table) : Prop := ∀ x : Symbol, Table.lookup t (Table.lookup t x) = x

/-- I-MODEL and I-OFF for one rotor instance (R26). -/
def Rotor.Legal (r : Rotor) : Prop := isModel r.model.number = true ∧ isSym r.off.val = true

/-- The invariants of R26 of a configuration. -/
structure Configuration.Inv (c : Configuration) : Prop where
  rotors_legal : ∀ k, (c.rotor k).Legal
  plug_involutive : PlugInvolutive c.plug

/-- The invariant of the machine: a WIRING that may run (R48), and R26. -/
structure State.Inv (s : State) : Prop where
  rom_wf : s.rom.wf = true
  config_inv : s.config.Inv

/-- The symbols that are plugged to another one. -/
def pluggedSymbols (t : Table) : List Symbol := allSymbols.filter fun x => decide (Table.lookup t x ≠ x)

/-- I-PLUG-PAIRS: the number of pairs, `|{s : plug[s] != s}| / 2` (R26). -/
def pairCount (t : Table) : Nat := (pluggedSymbols t).length / 2

/-- "Every response has STATUS = 0" (R176). -/
def errorFree (responses : List Word) : Prop := ∀ r ∈ responses, statusOf r = .ok

/-- The state a command leaves: a configuration and one more response; all else as before. -/
def State.after (s : State) (c : Configuration) (r : Word) : State :=
  { s with config := c, responses := s.responses ++ [r] }

/-- A response word written out: DATA `data` with STATUS OK (R70). -/
def okResponse (data : Nat) : Word := BitVec.ofNat 32 (4 * data)

/-- R163, bit by bit: `OP` is unassigned (R65), or a bit that the format of R61 reserves is set (R64). -/
def IllegalBits (w : Word) : Prop :=
  w.toNat % 16 = 0 ∨ 10 ≤ w.toNat % 16 ∨
  (w.toNat % 16 = 1 ∧ w.toNat / 2 ^ 28 ≠ 0) ∨
  (w.toNat % 16 = 2 ∧ w.toNat / 2 ^ 9 ≠ 0) ∨
  (w.toNat % 16 = 3 ∧ w.toNat / 2 ^ 6 ≠ 0) ∨
  (w.toNat % 16 = 4 ∧ w.toNat / 2 ^ 11 ≠ 0) ∨
  (w.toNat % 16 = 5 ∧ w.toNat / 2 ^ 14 ≠ 0) ∨
  (w.toNat % 16 = 6 ∧ w.toNat / 2 ^ 9 ≠ 0) ∨
  (w.toNat % 16 = 7 ∧ w.toNat / 2 ^ 4 ≠ 0) ∨
  (w.toNat % 16 = 8 ∧ w.toNat / 2 ^ 9 ≠ 0) ∨
  (w.toNat % 16 = 9 ∧ w.toNat / 2 ^ 9 ≠ 0)

/-- A rotor command (R88, R185). -/
def isRotorCommand : Instr → Bool
  | .configureMachine _ _ _ _ _ _ | .setRotor _ _ | .getRotorPos _ => true
  | .encryptOneChar _ | .setPlug _ _ | .getPlug _ | .clearPlugboard | .disconnect _ | .isConnected _ => false

/-- A plugboard command (R88, R185). -/
def isPlugboardCommand : Instr → Bool
  | .setPlug _ _ | .getPlug _ | .clearPlugboard | .disconnect _ | .isConnected _ => true
  | .configureMachine _ _ _ _ _ _ | .setRotor _ _ | .getRotorPos _ | .encryptOneChar _ => false

/-- The class the host-side encoder reports for a call with an argument that does not fit: that of its operands, by
R162; none for the call without operands. -/
def callErrorClass : HostCall → Option ErrorClass
  | .configureMachine _ _ _ _ _ _ | .getRotorPos _ | .setRotor _ _ => some .configurationError
  | .encryptOneChar _ | .setPlug _ _ | .getPlug _ | .disconnect _ | .isConnected _ => some .invalidSymbolError
  | .clearPlugboard => none

/-- `ENCRYPT_ONE_CHAR` of each symbol of a message, as command words (R73 `ENCRYPT_TEXT`). -/
def encryptWords (message : List Symbol) : List Word := message.map fun x => encode (.encryptOneChar x.val)

end Sys2Proof.Machine
end

