-- ==== Sys2Proof/Certificates/Slice0/Obligations.lean ====
section
/-! DEFINITION. The statements about the machine, each from the numbered rules of spec/. `s.after c r` is `s` with its
configuration replaced by `c` and one response `r` more, everything else (ROM, host's inputs, earlier responses)
unchanged: a statement that answers it is a completion statement and states its frame. -/

open Sys2Proof Sys2Proof.Machine

/-! ### Encoding -/

/-- R61, R62, R66: no bit of an encoding is dropped, for every command and every operand a field admits. -/
def Obligations.DecodeEncodeRoundTrip : Prop :=
  ∀ i : Instr, i.wellFormed = true → decode (encode i) = .command i

/-- R61, R66: each word that decodes to a command is that command's only word. -/
def Obligations.EncodeDecodeRoundTrip : Prop :=
  ∀ (w : Word) (i : Instr), decode w = .command i → i.wellFormed = true ∧ encode i = w

/-- R61, R62: where each format puts its fields, as numbers: a field at bit `lo` weighs `2 ^ lo`. -/
def Obligations.FieldPositionsOfEveryCommand : Prop :=
  (∀ m1 p1 m2 p2 m3 p3 : Nat, m1 < 8 → p1 < 32 → m2 < 8 → p2 < 32 → m3 < 8 → p3 < 32 →
    decode (BitVec.ofNat 32 (1 + 2 ^ 4 * m1 + 2 ^ 7 * p1 + 2 ^ 12 * m2 + 2 ^ 15 * p2 + 2 ^ 20 * m3 + 2 ^ 23 * p3)) =
      .command (.configureMachine m1 p1 m2 p2 m3 p3)) ∧
  (∀ a : Nat, a < 32 →
    decode (BitVec.ofNat 32 (2 + 2 ^ 4 * a)) = .command (.encryptOneChar a) ∧
    decode (BitVec.ofNat 32 (6 + 2 ^ 4 * a)) = .command (.getPlug a) ∧
    decode (BitVec.ofNat 32 (8 + 2 ^ 4 * a)) = .command (.disconnect a) ∧
    decode (BitVec.ofNat 32 (9 + 2 ^ 4 * a)) = .command (.isConnected a)) ∧
  (∀ slot : Nat, slot < 4 → decode (BitVec.ofNat 32 (3 + 2 ^ 4 * slot)) = .command (.getRotorPos slot)) ∧
  (∀ slot pos : Nat, slot < 4 → pos < 32 →
    decode (BitVec.ofNat 32 (4 + 2 ^ 4 * slot + 2 ^ 6 * pos)) = .command (.setRotor slot pos)) ∧
  (∀ a b : Nat, a < 32 → b < 32 →
    decode (BitVec.ofNat 32 (5 + 2 ^ 4 * a + 2 ^ 9 * b)) = .command (.setPlug a b)) ∧
  decode 7#32 = .command .clearPlugboard

/-- R64, R65, R66: a word is illegal exactly when its opcode is unassigned or a reserved bit of its format is set. -/
def Obligations.IllegalWordsAreExactlyThoseOfTheRules : Prop :=
  ∀ w : Word, (∃ reason, decode w = .illegal reason) ↔ IllegalBits w

/-- R74: the spec's own encoding examples decode to the commands they stand for. -/
def Obligations.EncodingExamplesDecode : Prop :=
  decode 0x00302011#32 = .command (.configureMachine 1 0 2 0 3 0) ∧
  decode 0x0011AA31#32 = .command (.configureMachine 3 20 2 3 1 0) ∧
  decode 0x0CBCCCD1#32 = .command (.configureMachine 5 25 4 25 3 25) ∧
  decode 0x00000072#32 = .command (.encryptOneChar 7) ∧
  decode 0x00000013#32 = .command (.getRotorPos 1) ∧
  decode 0x00000124#32 = .command (.setRotor 2 4) ∧
  decode 0x00003205#32 = .command (.setPlug 0 25) ∧
  decode 0x00000006#32 = .command (.getPlug 0) ∧
  decode 0x00000007#32 = .command .clearPlugboard ∧
  decode 0x00000008#32 = .command (.disconnect 0) ∧
  decode 0x00000199#32 = .command (.isConnected 25)

/-! ### The step -/

/-- A step runs the decoded command: it is `exec` of it, with the word taken from the host's inputs. -/
def Obligations.StepRunsDecodedCommand : Prop :=
  ∀ (s : State) (w : Word) (rest : List HostInput) (i : Instr),
    s.rom.wf = true → s.inputs = .command w :: rest → decode w = .command i →
      step s = exec i { s with inputs := rest }

/-- R163, R164: an illegal word writes no state and returns 0x00000003, whatever its operand bits hold. -/
def Obligations.StepRejectsIllegalWord : Prop :=
  ∀ (s : State) (w : Word) (rest : List HostInput),
    s.rom.wf = true → s.inputs = .command w :: rest → IllegalBits w →
      step s = .next (({ s with inputs := rest } : State).after s.config 0x00000003#32)

/-- R180, R30: at power-up and when the reset input is asserted every piece of state takes its reset value. The ROM is
not touched and there is no response (R181). That the host's inputs and past responses stay is the model's choice, log
entry 6. -/
def Obligations.ResetSetsEveryPieceOfState : Prop :=
  (∀ (s : State) (rest : List HostInput), s.rom.wf = true → s.inputs = .reset :: rest →
    ∃ t, step s = .next t ∧
      t.model .one = .i ∧ t.model .two = .ii ∧ t.model .three = .iii ∧ (∀ k, t.off k = 0) ∧ (∀ x, t.plug x = x) ∧
      t.rom = s.rom ∧ t.inputs = rest ∧ t.responses = s.responses) ∧
  (State.reset.model .one = .i ∧ State.reset.model .two = .ii ∧ State.reset.model .three = .iii ∧
    (∀ k, State.reset.off k = 0) ∧ ∀ x, State.reset.plug x = x)

/-- The model's choice (log entry 4), resting on R65 "an idle or cleared bus never changes the state": with nothing
presented the block waits. -/
def Obligations.IdleStepChangesNothing : Prop :=
  ∀ s : State, s.rom.wf = true → s.inputs = [] → step s = .next s

/-- R48: a WIRING that breaks the laws R41 to R44 is refused, not run; and no other is. That the refusal is in `step`,
for every input, also the reset input and no input, is the model's choice, log entry 8. -/
def Obligations.StepRefusesExactlyUnlawfulWiring : Prop :=
  ∀ s : State, step s = .refused .illFormedWiring ↔ ¬ Lawful s.rom

/-- R32, R66, R69, R192: with a lawful WIRING every input of every kind completes; a command returns exactly one
response and a reset none; the ROM never changes (R45). Two clauses are the model's choice: that a step with nothing
presented completes and gives no response (log entry 4), and that a reset leaves the later inputs and the earlier
responses (log entry 6). -/
def Obligations.EveryStepCompletes : Prop :=
  ∀ s : State, Lawful s.rom → ∃ t, step s = .next t ∧ t.rom = s.rom ∧ t.inputs = s.inputs.tail ∧
    (∀ w rest, s.inputs = .command w :: rest → ∃ r, t.responses = s.responses ++ [r]) ∧
    ((∀ w rest, s.inputs ≠ .command w :: rest) → t.responses = s.responses)

/-- R32: running the machine over a command stream is the left fold of the step function
`WIRING → State → Word32 → State × Word32`, whatever was answered before and whatever is presented after. -/
def Obligations.RunIsFoldOfTransactions : Prop :=
  ∀ (W : Wiring) (c : Configuration) (ws : List Word), W.wf = true →
    ∃ c' rs, runStream W c ws = some (c', rs) ∧ rs.length = ws.length ∧
      ∀ (later : List HostInput) (earlier : List Word),
        Host.Core.run Sys2Proof.core ws.length
            ({ rom := W, config := c, inputs := ws.map .command ++ later, responses := earlier } : State) =
          .next ({ rom := W, config := c', inputs := later, responses := earlier ++ rs } : State)

/-! ### Invariants -/

/-- R26, R180: the reset state satisfies the invariants (and its WIRING the laws). -/
def Obligations.ResetSatisfiesInv : Prop := State.reset.Inv

/-- R26: every step keeps I-MODEL, I-OFF and I-PLUG-INV (and the WIRING well formed), from every state that has them. -/
def Obligations.StepKeepsInv : Prop :=
  ∀ s t : State, s.Inv → step s = .next t → t.Inv

/-- R26, I-PLUG-PAIRS: an involutive plugboard is made of whole pairs, at most 13. -/
def Obligations.InvolutivePlugboardIsWholePairs : Prop :=
  ∀ t : Table, PlugInvolutive t →
    (∀ x ∈ pluggedSymbols t, Table.lookup t x ∈ pluggedSymbols t) ∧
    (pluggedSymbols t).length = 2 * pairCount t ∧ pairCount t ≤ maxPairs

/-! ### Whole-machine rules -/

/-- R160: a command either completes with status OK, or is rejected with exactly one error status, that of its operand
class (R162), and no write to the state; which of the two depends on its operands alone (R63). -/
def Obligations.CommandSucceedsOrChangesNothing : Prop :=
  ∀ (i : Instr) (s : State), ∃ c r, exec i s = .next (s.after c r) ∧
    (operandsLegal i = true → statusOf r = .ok) ∧
    (operandsLegal i = false → c = s.config ∧
      ∃ e, operandErrorClass i = some e ∧ r = BitVec.ofNat 32 (e.status.code.toNat))

/-- R70, R72: bits 31..7 of a response are 0, DATA is 0 in an error response and in one of a command with no output,
and an output is within its range. -/
def Obligations.ResponseWordShape : Prop :=
  ∀ (i : Instr) (s : State), ∃ c r, exec i s = .next (s.after c r) ∧ r.toNat < 2 ^ 7 ∧
    (statusOf r ≠ .ok → dataOf r = 0) ∧
    (i.opcode = .configureMachine ∨ i.opcode = .setRotor ∨ i.opcode = .setPlug ∨ i.opcode = .clearPlugboard ∨
      i.opcode = .disconnect → dataOf r = 0) ∧
    (i.opcode = .encryptOneChar ∨ i.opcode = .getRotorPos ∨ i.opcode = .getPlug → dataOf r ≤ 25) ∧
    (i.opcode = .isConnected → dataOf r ≤ 1)

/-- R27, the W entries: only CONFIGURE_MACHINE writes a model, only it, ENCRYPT_ONE_CHAR and SET_ROTOR write an offset,
only SET_PLUG, CLEAR_PLUGBOARD and DISCONNECT write the plugboard. -/
def Obligations.AccessMatrixWrites : Prop :=
  ∀ (i : Instr) (s : State), ∃ c r, exec i s = .next (s.after c r) ∧
    (i.opcode ≠ .configureMachine → ∀ k, (c.rotor k).model = s.model k) ∧
    (i.opcode ≠ .configureMachine → i.opcode ≠ .encryptOneChar → i.opcode ≠ .setRotor →
      ∀ k, (c.rotor k).off = s.off k) ∧
    (i.opcode ≠ .setPlug → i.opcode ≠ .clearPlugboard → i.opcode ≠ .disconnect → c.plug = s.config.plug)

/-- R27, the R entries, and R88: a plugboard command reads the plugboard alone, and a rotor command reads the offsets
alone: not the other half of the state, nor the models, nor the ROM. -/
def Obligations.AccessMatrixReads : Prop :=
  (∀ i, isPlugboardCommand i = true → ∀ s s' : State, s.config.plug = s'.config.plug →
    ∃ c c' r, exec i s = .next (s.after c r) ∧ exec i s' = .next (s'.after c' r) ∧ c.plug = c'.plug) ∧
  (∀ i, isRotorCommand i = true → ∀ s s' : State, (∀ k, s.off k = s'.off k) →
    ∃ c c' r, exec i s = .next (s.after c r) ∧ exec i s' = .next (s'.after c' r) ∧
      ∀ k, (c.rotor k).off = (c'.rotor k).off)

/-- R131, R168, R25: the response and the next configuration are functions of the operands, the configuration and
WIRING alone; what the host did before or will do next cannot be seen by a command. -/
def Obligations.CommandSeesOnlyConfigurationAndWiring : Prop :=
  ∀ (i : Instr) (s s' : State), s.rom = s'.rom → s.config = s'.config →
    ∃ c r, exec i s = .next (s.after c r) ∧ exec i s' = .next (s'.after c r)

/-- R52: the queries have no side effect, every command but ENCRYPT_ONE_CHAR is idempotent with the same response, and
a legal ENCRYPT_ONE_CHAR is not idempotent: it always changes the configuration. -/
def Obligations.OnlyEncryptIsNotIdempotent : Prop :=
  (∀ (i : Instr) (s : State), i.opcode ≠ .encryptOneChar →
    ∃ c r, exec i s = .next (s.after c r) ∧ exec i (s.after c r) = .next ((s.after c r).after c r) ∧
      (i.opcode = .getPlug ∨ i.opcode = .getRotorPos ∨ i.opcode = .isConnected → c = s.config)) ∧
  (∀ (x : Symbol) (s : State), ∃ c r, exec (.encryptOneChar x.val) s = .next (s.after c r) ∧ c ≠ s.config)

/-- R185: a rotor command and a plugboard command may be issued in either order with the same result and the same
responses. -/
def Obligations.RotorAndPlugboardCommandsCommute : Prop :=
  ∀ (i j : Instr) (s : State), isRotorCommand i = true → isPlugboardCommand j = true →
    ∃ ci cj c ri rj,
      exec i s = .next (s.after ci ri) ∧ exec j (s.after ci ri) = .next ((s.after ci ri).after c rj) ∧
      exec j s = .next (s.after cj rj) ∧ exec i (s.after cj rj) = .next ((s.after cj rj).after c ri)

/-- R185: plugboard commands among themselves do not commute: SET_PLUG a,b then SET_PLUG a,c leaves a and c paired and
b unplugged. -/
def Obligations.LaterSetPlugTakesThePartner : Prop :=
  ∀ (s : State) (a b c : Symbol), a ≠ b → a ≠ c → b ≠ c →
    ∃ t u, exec (.setPlug a.val b.val) s = .next t ∧ exec (.setPlug a.val c.val) t = .next u ∧
      t.plug a = b ∧ t.plug b = a ∧ u.plug a = c ∧ u.plug c = a ∧ u.plug b = b

/-- R166: no error is sticky: the commands after a rejected one behave as if it had never been issued. -/
def Obligations.RejectedCommandLeavesNoTrace : Prop :=
  ∀ (W : Wiring) (c c' : Configuration) (w r : Word) (ws : List Word),
    transact W c w = some (c', r) → statusOf r ≠ .ok →
      c' = c ∧ runStream W c (w :: ws) = (runStream W c ws).map fun p => (p.1, r :: p.2)

/-- R176, R160: a command stream is error-free exactly when every command's operands are in range. -/
def Obligations.StreamIsErrorFreeIffOperandsLegal : Prop :=
  ∀ (W : Wiring) (c : Configuration) (is : List Instr), W.wf = true → (∀ i ∈ is, i.wellFormed = true) →
    ∃ c' rs, runStream W c (is.map encode) = some (c', rs) ∧
      (errorFree rs ↔ ∀ i ∈ is, operandsLegal i = true)

/-! ### Plugboard commands -/

/-- R81, R87: SET_PLUG of two different symbols, of the same symbol twice, and of a symbol out of range. -/
def Obligations.SetPlugMeaning : Prop :=
  (∀ (s : State) (a b : Symbol), a ≠ b →
    ∃ p, exec (.setPlug a.val b.val) s = .next (s.after { s.config with plug := p } 0x00000000#32) ∧
      ∀ x, Table.lookup p x =
        if x = a then b else if x = b then a else if x = s.plug a ∨ x = s.plug b then x else s.plug x) ∧
  (∀ (s : State) (a : Symbol),
    ∃ p, exec (.setPlug a.val a.val) s = .next (s.after { s.config with plug := p } 0x00000000#32) ∧
      ∀ x, Table.lookup p x = if x = a ∨ x = s.plug a then x else s.plug x) ∧
  (∀ (s : State) (a b : Nat), 25 < a ∨ 25 < b →
    exec (.setPlug a b) s = .next (s.after s.config 0x00000002#32))

/-- R83: GET_PLUG answers the partner and writes nothing. -/
def Obligations.GetPlugMeaning : Prop :=
  (∀ (s : State) (a : Symbol),
    exec (.getPlug a.val) s = .next (s.after s.config (okResponse (s.plug a).val))) ∧
  (∀ (s : State) (a : Nat), 25 < a → exec (.getPlug a) s = .next (s.after s.config 0x00000002#32))

/-- R84: CLEAR_PLUGBOARD makes the plugboard the identity and leaves the rotors. -/
def Obligations.ClearPlugboardMeaning : Prop :=
  ∀ s : State, ∃ p, exec .clearPlugboard s = .next (s.after { s.config with plug := p } 0x00000000#32) ∧
    ∀ x, Table.lookup p x = x

/-- R85: DISCONNECT unplugs the symbol and its partner. -/
def Obligations.DisconnectMeaning : Prop :=
  (∀ (s : State) (a : Symbol),
    ∃ p, exec (.disconnect a.val) s = .next (s.after { s.config with plug := p } 0x00000000#32) ∧
      ∀ x, Table.lookup p x = if x = a ∨ x = s.plug a then x else s.plug x) ∧
  (∀ (s : State) (a : Nat), 25 < a → exec (.disconnect a) s = .next (s.after s.config 0x00000002#32))

/-- R86: IS_CONNECTED answers 1 exactly when the symbol's partner is another symbol, and writes nothing. -/
def Obligations.IsConnectedMeaning : Prop :=
  (∀ (s : State) (a : Symbol),
    exec (.isConnected a.val) s =
      .next (s.after s.config (if s.plug a = a then 0x00000000#32 else 0x00000004#32))) ∧
  (∀ (s : State) (a : Nat), 25 < a → exec (.isConnected a) s = .next (s.after s.config 0x00000002#32))

/-! ### Rotor commands -/

/-- R140, R141, R145: CONFIGURE_MACHINE replaces all three rotor instances and leaves the plugboard; one illegal
operand, and nothing is written. -/
def Obligations.ConfigureMachineMeaning : Prop :=
  (∀ (s : State) (m1 m2 m3 : ModelId) (p1 p2 p3 : Symbol),
    exec (.configureMachine m1.number p1.val m2.number p2.val m3.number p3.val) s =
      .next (s.after { rotor1 := ⟨m1, p1⟩, rotor2 := ⟨m2, p2⟩, rotor3 := ⟨m3, p3⟩, plug := s.config.plug }
        0x00000000#32)) ∧
  (∀ (s : State) (m1 p1 m2 p2 m3 p3 : Nat),
    ¬ (1 ≤ m1 ∧ m1 ≤ 5) ∨ ¬ (1 ≤ m2 ∧ m2 ≤ 5) ∨ ¬ (1 ≤ m3 ∧ m3 ≤ 5) ∨ 25 < p1 ∨ 25 < p2 ∨ 25 < p3 →
      exec (.configureMachine m1 p1 m2 p2 m3 p3) s = .next (s.after s.config 0x00000001#32))

/-- R142: SET_ROTOR sets one slot's offset and nothing else, slot by slot; no rotor steps. -/
def Obligations.SetRotorMeaning : Prop :=
  (∀ (s : State) (p : Symbol),
    exec (.setRotor 1 p.val) s = .next (s.after { s.config with rotor1 := ⟨s.model .one, p⟩ } 0x00000000#32) ∧
    exec (.setRotor 2 p.val) s = .next (s.after { s.config with rotor2 := ⟨s.model .two, p⟩ } 0x00000000#32) ∧
    exec (.setRotor 3 p.val) s = .next (s.after { s.config with rotor3 := ⟨s.model .three, p⟩ } 0x00000000#32)) ∧
  (∀ (s : State) (slot pos : Nat), slot = 0 ∨ 3 < slot ∨ 25 < pos →
    exec (.setRotor slot pos) s = .next (s.after s.config 0x00000001#32))

/-- R144: GET_ROTOR_POS answers the slot's offset and writes nothing. -/
def Obligations.GetRotorPosMeaning : Prop :=
  (∀ s : State,
    exec (.getRotorPos 1) s = .next (s.after s.config (okResponse (s.off .one).val)) ∧
    exec (.getRotorPos 2) s = .next (s.after s.config (okResponse (s.off .two).val)) ∧
    exec (.getRotorPos 3) s = .next (s.after s.config (okResponse (s.off .three).val))) ∧
  (∀ (s : State) (slot : Nat), slot = 0 ∨ 3 < slot →
    exec (.getRotorPos slot) s = .next (s.after s.config 0x00000001#32))

/-! ### Stepping and the cipher path -/

/-- R100, R101, R103: the offsets a legal ENCRYPT_ONE_CHAR leaves, from the flags sensed before any stepping. -/
def Obligations.EncryptStepsRotors : Prop :=
  ∀ (s : State) (x : Symbol),
    let r1AtNotch := s.off .one = s.rom.romN (s.model .one)
    let r2AtNotch := s.off .two = s.rom.romN (s.model .two)
    ∃ t, exec (.encryptOneChar x.val) s = .next t ∧
      (t.off .one).val = ((s.off .one).val + 1) % 26 ∧
      (r1AtNotch ∨ r2AtNotch → (t.off .two).val = ((s.off .two).val + 1) % 26) ∧
      (¬ r1AtNotch → ¬ r2AtNotch → t.off .two = s.off .two) ∧
      (r2AtNotch → (t.off .three).val = ((s.off .three).val + 1) % 26) ∧
      (¬ r2AtNotch → t.off .three = s.off .three)

/-- R120 to R127, R129: the response of ENCRYPT_ONE_CHAR is the nine substitutions at the offsets it leaves; models,
plugboard and ROM stay; a symbol out of range steps nothing. (`+` and `-` of symbols are those of R10, mod 26.) -/
def Obligations.EncryptMeaning : Prop :=
  (∀ (s : State) (x : Symbol), ∃ t, exec (.encryptOneChar x.val) s = .next t ∧
    t.rom = s.rom ∧ (∀ k, t.model k = s.model k) ∧ t.config.plug = s.config.plug ∧ t.inputs = s.inputs ∧
    (let rotor := fun (table : ModelId → Symbol → Symbol) (k : Slot) (y : Symbol) =>
        table (s.model k) (y + t.off k) - t.off k
     let s1 := s.plug x
     let s2 := rotor s.rom.romP .one s1
     let s3 := rotor s.rom.romP .two s2
     let s4 := rotor s.rom.romP .three s3
     let s5 := s.rom.romRef s4
     let s6 := rotor s.rom.romPinv .three s5
     let s7 := rotor s.rom.romPinv .two s6
     let s8 := rotor s.rom.romPinv .one s7
     t.responses = s.responses ++ [okResponse (s.plug s8).val])) ∧
  (∀ (s : State) (a : Nat), 25 < a → exec (.encryptOneChar a) s = .next (s.after s.config 0x00000002#32))

/-- R107: the double-stepping anomaly over two consecutive keystrokes: rotor 2 moves on both, rotor 3 on the second. -/
def Obligations.DoubleStepOverTwoKeystrokes : Prop :=
  ∀ (s : State) (x y : Symbol),
    s.off .one = s.rom.romN (s.model .one) → s.off .two + 1 = s.rom.romN (s.model .two) →
    ∃ t u, exec (.encryptOneChar x.val) s = .next t ∧ exec (.encryptOneChar y.val) t = .next u ∧
      t.off .one = s.off .one + 1 ∧ t.off .two = s.off .two + 1 ∧ t.off .three = s.off .three ∧
      u.off .one = s.off .one + 2 ∧ u.off .two = s.off .two + 2 ∧ u.off .three = s.off .three + 1

/-- R106: rotor 3's notch is never read. Two wirings with the same tables and the same notches for the models in slots
1 and 2 encrypt and step alike, whatever the other notches are. -/
def Obligations.RotorThreeNotchNeverRead : Prop :=
  ∀ (s s' : State) (a : Nat), s.config = s'.config →
    (∀ m i, s.rom.romP m i = s'.rom.romP m i) → (∀ m i, s.rom.romPinv m i = s'.rom.romPinv m i) →
    (∀ i, s.rom.romRef i = s'.rom.romRef i) →
    s.rom.romN (s.model .one) = s'.rom.romN (s.model .one) →
    s.rom.romN (s.model .two) = s'.rom.romN (s.model .two) →
    ∃ c r, exec (.encryptOneChar a) s = .next (s.after c r) ∧ exec (.encryptOneChar a) s' = .next (s'.after c r)

/-- R123: `fwd(k, ·)` and `inv(k, ·)` are mutually inverse bijections at fixed model and offset. -/
def Obligations.RotorSubstitutionsMutuallyInverse : Prop :=
  ∀ (s : State) (k : Slot), s.rom.wf = true →
    Function.Bijective (fwd s k) ∧ Function.Bijective (inv s k) ∧
    (∀ x, inv s k (fwd s k x) = x) ∧ ∀ y, fwd s k (inv s k y) = y

/-- R128, R130: fix a state. The map `E` from input symbol to result symbol of ENCRYPT_ONE_CHAR is the reflector seen
through `σ`, plugboard and forward cascade at the stepped offsets; it is a bijection, an involution (encrypting the
result from the same state returns the input), and has no fixed point: no letter is encrypted to itself. -/
def Obligations.EncryptionIsFixedPointFreeInvolution : Prop :=
  ∀ s : State, s.Inv → ∃ (E : Symbol → Symbol) (c : Configuration),
    (∀ x : Symbol, exec (.encryptOneChar x.val) s = .next (s.after c (okResponse (E x).val))) ∧
    (let σ := fun y => cascadeFwd (s.after c 0#32) (s.plug y)
     ∀ x, σ (E x) = s.rom.romRef (σ x)) ∧
    Function.Bijective E ∧ (∀ x, E (E x) = x) ∧ ∀ x, E x ≠ x

/-- R130: a message is decrypted by restoring the configuration it was encrypted from and encrypting the ciphertext. -/
def Obligations.DecryptionRecoversTheMessage : Prop :=
  ∀ (W : Wiring) (c : Configuration) (message : List Symbol), W.wf = true → c.Inv →
    ∃ c', ∃ ciphertext : List Symbol,
      runStream W c (encryptWords message) = some (c', ciphertext.map fun y => okResponse y.val) ∧
      runStream W c (encryptWords ciphertext) = some (c', message.map fun x => okResponse x.val)

/-- R187, R101, R144: a position read after an encryption is the stepped one, in each slot; the notches are those
sensed before the encryption. -/
def Obligations.PositionReadAfterEncryptionIsStepped : Prop :=
  ∀ (s : State) (x : Symbol),
    let r1AtNotch := s.off .one = s.rom.romN (s.model .one)
    let r2AtNotch := s.off .two = s.rom.romN (s.model .two)
    ∃ t, exec (.encryptOneChar x.val) s = .next t ∧
      exec (.getRotorPos 1) t = .next (t.after t.config (okResponse (((s.off .one).val + 1) % 26))) ∧
      exec (.getRotorPos 2) t = .next (t.after t.config (okResponse
        (if r1AtNotch ∨ r2AtNotch then ((s.off .two).val + 1) % 26 else (s.off .two).val))) ∧
      exec (.getRotorPos 3) t = .next (t.after t.config (okResponse
        (if r2AtNotch then ((s.off .three).val + 1) % 26 else (s.off .three).val)))

/-! ### Wiring -/

/-- R46: the default instance satisfies R41 to R44, and its notches are Q, E, V, J, Z. (Its contents are PRESUMED by
the spec itself, log entry 1.) -/
def Obligations.DefaultWiringIsLawful : Prop :=
  Lawful wiringHist ∧ wiringHist.romN .i = 16 ∧ wiringHist.romN .ii = 4 ∧ wiringHist.romN .iii = 21 ∧
    wiringHist.romN .iv = 9 ∧ wiringHist.romN .v = 25

/-- R44: the reflector of any lawful WIRING is a product of 13 disjoint 2-cycles. -/
def Obligations.ReflectorIsThirteenPairs : Prop :=
  ∀ W : Wiring, Lawful W → (allSymbols.filter fun i => decide (i < W.romRef i)).length = 13

/-- R42: ROM_PINV is determined by ROM_P. -/
def Obligations.InverseTableIsDetermined : Prop :=
  ∀ (W W' : Wiring) (m : ModelId), Lawful W → Lawful W' → (∀ i, W.romP m i = W'.romP m i) →
    ∀ j, W.romPinv m j = W'.romPinv m j

/-! ### Host side -/

/-- R183, R146: CONFIGURE_MACHINE 1,0,2,0,3,0 and CLEAR_PLUGBOARD, in either order, reach the reset configuration from
any state, and both answer OK. -/
def Obligations.SoftwareResetReachesResetConfiguration : Prop :=
  ∀ (W : Wiring) (c : Configuration), W.wf = true →
    runStream W c [0x00302011#32, 0x00000007#32] = some (Configuration.reset, [0x00000000#32, 0x00000000#32]) ∧
    runStream W c [0x00000007#32, 0x00302011#32] = some (Configuration.reset, [0x00000000#32, 0x00000000#32])

/-- R49: a word sent as bytes goes least significant byte first. The second clause, that reading four bytes of a
stream gives the word back with the rest of the stream, is the model's own (log entry 10, DEDUCED): R50 leaves framing
outside the block. -/
def Obligations.WordsTravelLittleEndian : Prop :=
  ∀ (w : Word) (rest : List Byte),
    bytesOfWord w =
      [w.extractLsb' 0 8, w.extractLsb' 8 8, w.extractLsb' 16 8, w.extractLsb' 24 8] ∧
    wordOfBytes (bytesOfWord w ++ rest) = some (w, rest)

/-- R68: the host-side encoder sends a word only if it decodes to the very call; for a call it rejects there is no
such word, and it reports the class of the call's operands. -/
def Obligations.HostEncoderNeverTruncates : Prop :=
  ∀ c : HostCall,
    (∀ w, hostEncode c = .ok w → ∃ i, decode w = .command i ∧ callOf i = c) ∧
    (∀ e, hostEncode c = .error e →
      (∀ w i, decode w = .command i → callOf i ≠ c) ∧ callErrorClass c = some e)

/-- R73: the pseudo-instructions' expansions, down to command words, for every operand that has a word; R68, R162: the
class of one that has none. Two points are the model's choice, log entry 11: `CONNECT a, a` is rejected under that name
also where `a` fits no field, and a `SET_POSITIONS` with a position that fits no field gives no word at all. -/
def Obligations.PseudoInstructionExpansions : Prop :=
  (∀ a b : Nat, a < 32 → b < 32 → a ≠ b →
    (AsmItem.connect a b).expand.bind encodeCalls = .ok [encode (.setPlug a b)]) ∧
  (∀ a b : Int, a ≠ b → (a < 0 ∨ 31 < a ∨ b < 0 ∨ 31 < b) →
    (AsmItem.connect a b).expand.bind encodeCalls = .error (.argument .invalidSymbolError)) ∧
  (∀ a : Int, (AsmItem.connect a a).expand = .error .connectSameLetter) ∧
  AsmItem.resetMachine.expand.bind encodeCalls = .ok [0x00302011#32, 0x00000007#32] ∧
  (∀ text : List Symbol, (AsmItem.encryptText text).expand.bind encodeCalls = .ok (encryptWords text)) ∧
  (∀ p1 p2 p3 : Nat, p1 < 32 → p2 < 32 → p3 < 32 →
    (AsmItem.setPositions p1 p2 p3).expand.bind encodeCalls =
      .ok [encode (.setRotor 1 p1), encode (.setRotor 2 p2), encode (.setRotor 3 p3)]) ∧
  (∀ p1 p2 p3 : Int, (p1 < 0 ∨ 31 < p1 ∨ p2 < 0 ∨ 31 < p2 ∨ p3 < 0 ∨ 31 < p3) →
    (AsmItem.setPositions p1 p2 p3).expand.bind encodeCalls = .error (.argument .configurationError))

/-- R173: no step of one instance reads or writes another's state. That instances are a list of States, each with its
own copy of the ROM, of which a step replaces one, is the model's choice, log entry 14. -/
def Obligations.InstancesAreIndependent : Prop :=
  ∀ (before after : List State) (k : Fin before.length), stepInstance before k = .next after →
    after.length = before.length ∧ (∃ t, step before[k.val] = .next t ∧ after[k.val]? = some t) ∧
    ∀ j, j ≠ k.val → after[j]? = before[j]?
end

