-- ==== Sys2Proof/Laws/Decode.lean ====
section
/-! SUPPORT. The numbers behind the encoding tables: a row's mask and pattern as bounds on the word's number, and the
number of each format. -/

namespace Sys2Proof

theorem toNat_append_eq {n m : Nat} (x : BitVec n) (y : BitVec m) : (x ++ y).toNat = x.toNat * 2 ^ m + y.toNat := by
  rw [BitVec.toNat_append, ← Nat.shiftLeft_add_eq_or_of_lt y.isLt, Nat.shiftLeft_eq]

/-- A mask that fixes the four opcode bits and every bit from `k` up asks for the opcode in the low bits and for a
number below `2 ^ k`. -/
theorem and_rowMask_iff (k : Nat) (hk : 4 ≤ k) (hk' : k ≤ 32) (w mask pattern : Word) (hp : pattern.toNat < 16)
    (hm : ∀ i : Fin 32, mask.getLsbD i.val = (decide (i.val < 4) || decide (k ≤ i.val))) :
    w &&& mask = pattern ↔ w.toNat % 16 = pattern.toNat ∧ w.toNat < 2 ^ k := by
  have hbit : ∀ i, 4 ≤ i → pattern.getLsbD i = false := fun i hi =>
    Nat.testBit_lt_two_pow (Nat.lt_of_lt_of_le hp (by simpa using Nat.pow_le_pow_right (n := 2) (by omega) hi))
  constructor
  · intro h
    have hb : ∀ i, i < 32 → (w.getLsbD i && (decide (i < 4) || decide (k ≤ i))) = pattern.getLsbD i := by
      intro i hi
      rw [← h, BitVec.getLsbD_and, hm ⟨i, hi⟩]
    constructor
    · apply Nat.eq_of_testBit_eq
      intro i
      rw [show (16 : Nat) = 2 ^ 4 from rfl, Nat.testBit_mod_two_pow]
      by_cases hi : i < 4
      · have := hb i (by omega)
        simpa [hi, BitVec.getLsbD] using this
      · have := hbit i (by omega)
        simpa [hi, BitVec.getLsbD] using this
    · apply Nat.lt_pow_two_of_testBit
      intro i hi
      by_cases h32 : i < 32
      · have := hb i h32
        rw [hbit i (by omega)] at this
        simpa [hi, BitVec.getLsbD] using this
      · exact Nat.testBit_lt_two_pow (Nat.lt_of_lt_of_le w.isLt (Nat.pow_le_pow_right (by omega) (by omega)))
  · rintro ⟨h1, h2⟩
    apply BitVec.eq_of_getLsbD_eq
    intro i hi
    rw [BitVec.getLsbD_and, hm ⟨i, hi⟩]
    by_cases h4 : i < 4
    · have : (w.toNat % 2 ^ 4).testBit i = pattern.toNat.testBit i := by rw [show (2 : Nat) ^ 4 = 16 from rfl, h1]
      rw [Nat.testBit_mod_two_pow] at this
      simpa [h4, BitVec.getLsbD] using this
    · rw [hbit i (by omega)]
      by_cases hki : k ≤ i
      · have : w.getLsbD i = false :=
          Nat.testBit_lt_two_pow (Nat.lt_of_lt_of_le h2 (Nat.pow_le_pow_right (by omega) hki))
        simp [this]
      · simp [h4, hki]

/-- The number of bits a format uses: every bit from here up is reserved (R61). -/
def Opcode.usedBits : Opcode → Nat
  | .configureMachine => 28
  | .encryptOneChar | .getPlug | .disconnect | .isConnected => 9
  | .getRotorPos => 6
  | .setRotor => 11
  | .setPlug => 14
  | .clearPlugboard => 4

/-- The value of `OP` (R62). -/
def Opcode.number : Opcode → Nat
  | .configureMachine => 1 | .encryptOneChar => 2 | .getRotorPos => 3 | .setRotor => 4 | .setPlug => 5
  | .getPlug => 6 | .clearPlugboard => 7 | .disconnect => 8 | .isConnected => 9

/-- A row of the opcode map matches exactly the words with its `OP` and no bit from its format's end up. -/
theorem matchesWord_iff {r : OpcodeRow} (hr : r ∈ opcodeTable) (w : Word) :
    r.matchesWord w = true ↔ w.toNat % 16 = r.opcode.number ∧ w.toNat < 2 ^ r.opcode.usedBits := by
  simp only [OpcodeRow.matchesWord, beq_iff_eq]
  simp only [opcodeTable, List.mem_cons, List.not_mem_nil, or_false] at hr
  rcases hr with rfl | rfl | rfl | rfl | rfl | rfl | rfl | rfl | rfl <;>
    exact and_rowMask_iff _ (by decide) (by decide) w _ _ (by decide) (by decide)

/-! ### The number of a command word -/

theorem formatN_toNat (op : BitVec 4) : (formatN op).toNat = op.toNat := by
  simp only [formatN, toNat_append_eq, BitVec.toNat_ofNat]; omega

theorem formatS_toNat {a : Nat} (ha : a < 32) (op : BitVec 4) : (formatS a op).toNat = op.toNat + 16 * a := by
  simp only [formatS, toNat_append_eq, BitVec.toNat_ofNat]; omega

theorem formatSS_toNat {a b : Nat} (ha : a < 32) (hb : b < 32) (op : BitVec 4) :
    (formatSS b a op).toNat = op.toNat + 16 * a + 512 * b := by
  simp only [formatSS, toNat_append_eq, BitVec.toNat_ofNat]; omega

theorem formatL_toNat {k : Nat} (hk : k < 4) (op : BitVec 4) : (formatL k op).toNat = op.toNat + 16 * k := by
  simp only [formatL, toNat_append_eq, BitVec.toNat_ofNat]; omega

theorem formatLP_toNat {k p : Nat} (hk : k < 4) (hp : p < 32) (op : BitVec 4) :
    (formatLP p k op).toNat = op.toNat + 16 * k + 64 * p := by
  simp only [formatLP, toNat_append_eq, BitVec.toNat_ofNat]; omega

theorem formatC_toNat {m1 p1 m2 p2 m3 p3 : Nat} (hm1 : m1 < 8) (hp1 : p1 < 32) (hm2 : m2 < 8) (hp2 : p2 < 32)
    (hm3 : m3 < 8) (hp3 : p3 < 32) (op : BitVec 4) :
    (formatC p3 m3 p2 m2 p1 m1 op).toNat =
      op.toNat + 16 * m1 + 128 * p1 + 4096 * m2 + 32768 * p2 + 1048576 * m3 + 8388608 * p3 := by
  simp only [formatC, toNat_append_eq, BitVec.toNat_ofNat]; omega

end Sys2Proof
end

