-- ==== Sys2Proof/Laws/Rom.lean ====
section
/-! SUPPORT. What the table operations of Machine/Rom.lean do: a read after a write, the identity table, and the
check that one table undoes another. -/

namespace Sys2Proof

theorem lookup_update_same (t : Table) (s x : Symbol) : Table.lookup (Table.update t s x) s = x := by
  simp [Table.lookup, Table.update]

theorem lookup_update_ne (t : Table) {s y : Symbol} (x : Symbol) (h : y ≠ s) :
    Table.lookup (Table.update t s x) y = Table.lookup t y := by
  have h' : s.val ≠ y.val := fun e => h (Fin.ext e.symm)
  simp [Table.lookup, Table.update, h']

/-- The one lemma about a read after a write. -/
theorem lookup_update (t : Table) (s x y : Symbol) :
    Table.lookup (Table.update t s x) y = if y = s then x else Table.lookup t y := by
  by_cases h : y = s
  · subst h; simp [lookup_update_same]
  · simp [h, lookup_update_ne]

@[simp] theorem lookup_identity (s : Symbol) : Table.lookup Table.identity s = s := by
  revert s; decide

/-- Tables with the same entries are equal. -/
theorem table_ext {t u : Table} (h : ∀ s, Table.lookup t s = Table.lookup u s) : t = u := by
  apply Vector.ext
  intro i hi
  exact h ⟨i, hi⟩

theorem mem_allSymbols (s : Symbol) : s ∈ allSymbols := by revert s; decide

theorem mem_allModels (m : ModelId) : m ∈ allModels := by cases m <;> decide

theorem undoes_iff (u t : Table) :
    Table.undoes u t = true ↔ ∀ s, Table.lookup u (Table.lookup t s) = s := by
  simp only [Table.undoes, decide_eq_true_eq]
  constructor
  · intro h s
    have hl : s.val < (t.toList.map (Table.lookup u)).length := by simp
    have hs : s.val < allSymbols.length := by simp [allSymbols]
    have e : (t.toList.map (Table.lookup u))[s.val] = allSymbols[s.val] := by simp only [h]
    have a : allSymbols[s.val] = s := lookup_identity s
    rw [a] at e
    simpa [Table.lookup] using e
  · intro h
    apply List.ext_getElem (by simp [allSymbols])
    intro i h1 h2
    have hi : i < 26 := by simpa using h1
    have a : allSymbols[i] = (⟨i, hi⟩ : Symbol) := lookup_identity ⟨i, hi⟩
    refine Eq.trans ?_ a.symm
    simpa [Table.lookup] using h ⟨i, hi⟩

theorem rotorWf_iff (r : RotorWiring) :
    r.wf = true ↔ (∀ i, Table.lookup r.inverse (Table.lookup r.forward i) = i) ∧
      ∀ j, Table.lookup r.forward (Table.lookup r.inverse j) = j := by
  simp [RotorWiring.wf, undoes_iff]

theorem reflectorWf_iff (t : Table) :
    reflectorWf t = true ↔ (∀ i, Table.lookup t (Table.lookup t i) = i) ∧ ∀ i, Table.lookup t i ≠ i := by
  simp [reflectorWf, undoes_iff, mem_allSymbols]

/-- A WIRING that passes the check satisfies R42 and R44 through the ROM lookups of R14. -/
theorem wiringWf_iff (W : Wiring) :
    W.wf = true ↔ (∀ m i, W.romPinv m (W.romP m i) = i) ∧ (∀ m j, W.romP m (W.romPinv m j) = j) ∧
      (∀ i, W.romRef (W.romRef i) = i) ∧ ∀ i, W.romRef i ≠ i := by
  have hm : (allModels.all fun m => (W.rotor m).wf) = true ↔ ∀ m, (W.rotor m).wf = true := by
    rw [List.all_eq_true]
    exact ⟨fun h m => h m (mem_allModels m), fun h m _ => h m⟩
  simp only [Wiring.wf, Bool.and_eq_true, hm, reflectorWf_iff, rotorWf_iff, Wiring.romP, Wiring.romPinv,
    Wiring.romRef]
  exact ⟨fun ⟨h1, h2, h3⟩ => ⟨fun m => (h1 m).1, fun m => (h1 m).2, h2, h3⟩,
    fun ⟨h1, h2, h3, h4⟩ => ⟨fun m => ⟨h1 m, h2 m⟩, h3, h4⟩⟩

/-- The default instance passes the check (R46: "Each row was checked to be a permutation, and REF to be an involution
with no fixed point"). -/
theorem wiringHist_wf : wiringHist.wf = true := by decide

end Sys2Proof
end

