-- ==== Sys2Proof/Laws/State.lean ====
section
/-! SUPPORT. One lemma per field per update of the state, so that no proof unfolds a record update. -/

namespace Sys2Proof.Machine

/-! ### Configuration -/

@[simp] theorem withRotor_rotor_same (c : Configuration) (k : Slot) (r : Rotor) : (c.withRotor k r).rotor k = r := by
  cases k <;> rfl

theorem withRotor_rotor_ne (c : Configuration) {k j : Slot} (r : Rotor) (h : j ≠ k) :
    (c.withRotor k r).rotor j = c.rotor j := by
  cases k <;> cases j <;> first | rfl | exact absurd rfl h

@[simp] theorem withRotor_plug (c : Configuration) (k : Slot) (r : Rotor) : (c.withRotor k r).plug = c.plug := by
  cases k <;> rfl

/-- Configurations with the same rotors and the same plugboard entries are equal. -/
theorem configuration_ext {c d : Configuration} (hr : ∀ k, c.rotor k = d.rotor k)
    (hp : ∀ x, Table.lookup c.plug x = Table.lookup d.plug x) : c = d := by
  have h1 := hr .one
  have h2 := hr .two
  have h3 := hr .three
  have h4 := table_ext hp
  cases c; cases d
  simp_all [Configuration.rotor]

/-! ### The reset state -/

@[simp] theorem reset_rom : State.reset.rom = wiringHist := rfl
@[simp] theorem reset_config : State.reset.config = Configuration.reset := rfl
@[simp] theorem reset_inputs : State.reset.inputs = [] := rfl
@[simp] theorem reset_responses : State.reset.responses = [] := rfl
@[simp] theorem configurationReset_plug : Configuration.reset.plug = Table.identity := rfl
@[simp] theorem configurationReset_off (k : Slot) : (Configuration.reset.rotor k).off = 0 := by cases k <;> rfl
theorem configurationReset_model_one : (Configuration.reset.rotor .one).model = .i := rfl
theorem configurationReset_model_two : (Configuration.reset.rotor .two).model = .ii := rfl
theorem configurationReset_model_three : (Configuration.reset.rotor .three).model = .iii := rfl

/-! ### setRotorInstance and setOff -/

section
variable (s : State) (k : Slot) (m : ModelId) (o : Symbol)

@[simp] theorem setRotorInstance_rom : (s.setRotorInstance k m o).rom = s.rom := rfl
@[simp] theorem setRotorInstance_inputs : (s.setRotorInstance k m o).inputs = s.inputs := rfl
@[simp] theorem setRotorInstance_responses : (s.setRotorInstance k m o).responses = s.responses := rfl
@[simp] theorem setRotorInstance_config : (s.setRotorInstance k m o).config = s.config.withRotor k ⟨m, o⟩ := rfl
@[simp] theorem setRotorInstance_plug (x : Symbol) : (s.setRotorInstance k m o).plug x = s.plug x := by
  simp [State.plug]
@[simp] theorem setRotorInstance_model_same : (s.setRotorInstance k m o).model k = m := by simp [State.model]
@[simp] theorem setRotorInstance_off_same : (s.setRotorInstance k m o).off k = o := by simp [State.off]
theorem setRotorInstance_model_ne {j : Slot} (h : j ≠ k) : (s.setRotorInstance k m o).model j = s.model j := by
  simp [State.model, withRotor_rotor_ne _ _ h]
theorem setRotorInstance_off_ne {j : Slot} (h : j ≠ k) : (s.setRotorInstance k m o).off j = s.off j := by
  simp [State.off, withRotor_rotor_ne _ _ h]

@[simp] theorem setOff_rom : (s.setOff k o).rom = s.rom := rfl
@[simp] theorem setOff_inputs : (s.setOff k o).inputs = s.inputs := rfl
@[simp] theorem setOff_responses : (s.setOff k o).responses = s.responses := rfl
@[simp] theorem setOff_config : (s.setOff k o).config = s.config.withRotor k ⟨s.model k, o⟩ := rfl
@[simp] theorem setOff_plug (x : Symbol) : (s.setOff k o).plug x = s.plug x := setRotorInstance_plug ..
@[simp] theorem setOff_off_same : (s.setOff k o).off k = o := setRotorInstance_off_same ..
theorem setOff_off_ne {j : Slot} (h : j ≠ k) : (s.setOff k o).off j = s.off j := setRotorInstance_off_ne _ _ _ _ h

/-- Setting an offset leaves every model as it is. -/
@[simp] theorem setOff_model (j : Slot) : (s.setOff k o).model j = s.model j := by
  by_cases h : j = k
  · subst h; exact setRotorInstance_model_same ..
  · exact setRotorInstance_model_ne _ _ _ _ h
end

/-! ### setPlug and clearPlugs -/

section
variable (s : State) (x y : Symbol)

@[simp] theorem setPlug_rom : (s.setPlug x y).rom = s.rom := rfl
@[simp] theorem setPlug_inputs : (s.setPlug x y).inputs = s.inputs := rfl
@[simp] theorem setPlug_responses : (s.setPlug x y).responses = s.responses := rfl
@[simp] theorem setPlug_rotor (k : Slot) : (s.setPlug x y).config.rotor k = s.config.rotor k := by cases k <;> rfl
@[simp] theorem setPlug_model (k : Slot) : (s.setPlug x y).model k = s.model k := by simp [State.model]
@[simp] theorem setPlug_off (k : Slot) : (s.setPlug x y).off k = s.off k := by simp [State.off]
theorem setPlug_plug (z : Symbol) : (s.setPlug x y).plug z = if z = x then y else s.plug z := lookup_update ..

@[simp] theorem clearPlugs_rom : s.clearPlugs.rom = s.rom := rfl
@[simp] theorem clearPlugs_inputs : s.clearPlugs.inputs = s.inputs := rfl
@[simp] theorem clearPlugs_responses : s.clearPlugs.responses = s.responses := rfl
@[simp] theorem clearPlugs_rotor (k : Slot) : s.clearPlugs.config.rotor k = s.config.rotor k := by cases k <;> rfl
@[simp] theorem clearPlugs_plug : s.clearPlugs.plug x = x := lookup_identity x
end

/-! ### pushResponse, takeReset and after -/

section
variable (s : State) (r : Word) (c : Configuration)

@[simp] theorem pushResponse_rom : (s.pushResponse r).rom = s.rom := rfl
@[simp] theorem pushResponse_config : (s.pushResponse r).config = s.config := rfl
@[simp] theorem pushResponse_inputs : (s.pushResponse r).inputs = s.inputs := rfl
@[simp] theorem pushResponse_responses : (s.pushResponse r).responses = s.responses ++ [r] := rfl

@[simp] theorem takeReset_rom : s.takeReset.rom = s.rom := rfl
@[simp] theorem takeReset_config : s.takeReset.config = Configuration.reset := rfl
@[simp] theorem takeReset_inputs : s.takeReset.inputs = s.inputs := rfl
@[simp] theorem takeReset_responses : s.takeReset.responses = s.responses := rfl

@[simp] theorem after_rom : (s.after c r).rom = s.rom := rfl
@[simp] theorem after_config : (s.after c r).config = c := rfl
@[simp] theorem after_inputs : (s.after c r).inputs = s.inputs := rfl
@[simp] theorem after_responses : (s.after c r).responses = s.responses ++ [r] := rfl
@[simp] theorem after_plug (x : Symbol) : (s.after c r).plug x = Table.lookup c.plug x := rfl
@[simp] theorem after_off (k : Slot) : (s.after c r).off k = (c.rotor k).off := rfl
@[simp] theorem after_model (k : Slot) : (s.after c r).model k = (c.rotor k).model := rfl

/-- Two outcomes of this shape are equal only if the configuration and the response are. -/
theorem after_inj {c d : Configuration} {r q : Word} (h : s.after c r = s.after d q) : c = d ∧ r = q := by
  have hc := congrArg State.config h
  have hr := congrArg State.responses h
  simp at hc hr
  exact ⟨hc, hr⟩
end

end Sys2Proof.Machine
end

