-- ==== Sys2Proof/Laws/Ops.lean ====
section
/-! SUPPORT. One spec lemma per shared operation of the machine: arithmetic mod 26, operand checks, ending a command,
breaking and joining pairs, stepping, the rotor substitutions. -/

namespace Sys2Proof.Machine

/-! ### Arithmetic mod 26 (R10) is the arithmetic of symbols -/

theorem mod26_val (v : Int) : ((mod26 v).val : Int) = v % 26 := by
  simp only [mod26]; omega

theorem mod26_add (x y : Symbol) : mod26 (toInt x + toInt y) = x + y := by
  apply Fin.ext
  have h := mod26_val (toInt x + toInt y)
  simp only [toInt] at h ⊢
  rw [Fin.val_add]
  omega

theorem mod26_sub (x y : Symbol) : mod26 (toInt x - toInt y) = x - y := by
  apply Fin.ext
  have h := mod26_val (toInt x - toInt y)
  have hx := x.isLt
  have hy := y.isLt
  simp only [toInt] at h ⊢
  rw [Fin.val_sub]
  omega

@[simp] theorem nextOffset_eq (o : Symbol) : nextOffset o = o + 1 := mod26_add o 1

/-! ### Operands -/

theorem symbol?_eq_some {v : Nat} {x : Symbol} : symbol? v = some x ↔ x.val = v := by
  unfold symbol?
  split
  · simp [Fin.ext_iff, eq_comm]
  · simp only [reduceCtorEq, false_iff]; omega

@[simp] theorem symbol?_val (x : Symbol) : symbol? x.val = some x := symbol?_eq_some.mpr rfl

theorem symbol?_eq_none {v : Nat} : symbol? v = none ↔ 25 < v := by
  unfold symbol?
  split
  · simp only [reduceCtorEq, false_iff]; omega
  · simp only [true_iff]; omega

theorem model?_eq_some {v : Nat} {m : ModelId} : model? v = some m ↔ m.number = v := by
  rcases v with _ | _ | _ | _ | _ | _ | v <;> cases m <;> simp [model?, ModelId.number]

@[simp] theorem model?_number (m : ModelId) : model? m.number = some m := model?_eq_some.mpr rfl

theorem model?_eq_none {v : Nat} : model? v = none ↔ v = 0 ∨ 5 < v := by
  rcases v with _ | _ | _ | _ | _ | _ | v <;> simp [model?]

/-- The number of a slot. -/
def slotNumber : Slot → Nat
  | .one => 1 | .two => 2 | .three => 3

theorem slot?_eq_some {v : Nat} {k : Slot} : slot? v = some k ↔ slotNumber k = v := by
  rcases v with _ | _ | _ | _ | v <;> cases k <;> simp [slot?, slotNumber]

theorem slot?_eq_none {v : Nat} : slot? v = none ↔ v = 0 ∨ 3 < v := by
  rcases v with _ | _ | _ | _ | v <;> simp [slot?]

/-! ### Ending a command -/

/-- `respond` changes nothing but the responses. -/
theorem respond_eq (status : Status) (data : BitVec 5) (s : State) :
    respond status data s = .next (s.after s.config (responseWord status data)) := rfl

/-- `raise` changes nothing but the responses, and answers DATA 0 (R15). -/
theorem raise_eq (e : ErrorClass) (s : State) :
    raise e s = .next (s.after s.config (responseWord e.status 0#5)) := rfl

theorem responseWord_toNat (status : Status) (data : BitVec 5) :
    (responseWord status data).toNat = 4 * data.toNat + status.code.toNat := by
  revert data; cases status <;> decide

theorem statusOf_responseWord (status : Status) (data : BitVec 5) : statusOf (responseWord status data) = status := by
  revert data; cases status <;> decide

theorem dataOf_responseWord (status : Status) (data : BitVec 5) : dataOf (responseWord status data) = data.toNat := by
  revert data; cases status <;> decide

theorem responseWord_ok_symbol (x : Symbol) : responseWord .ok (dataOfSymbol x) = okResponse x.val := by
  revert x; decide

theorem dataOf_okResponse (x : Symbol) : dataOf (okResponse x.val) = x.val := by revert x; decide

/-! ### Pairs -/

/-- What breaking the pair of `a` leaves (R85). -/
theorem breakPair_plug (a x : Symbol) (s : State) :
    (breakPair a s).plug x = if x = a ∨ x = s.plug a then x else s.plug x := by
  simp only [breakPair, setPlug_plug]
  generalize s.plug a = c
  split_ifs <;> simp_all

/-- What joining two different symbols leaves (R81). -/
theorem joinPair_plug {a b : Symbol} (hab : a ≠ b) (x : Symbol) (s : State) :
    (joinPair a b s).plug x =
      if x = a then b else if x = b then a else if x = s.plug a ∨ x = s.plug b then x else s.plug x := by
  simp only [joinPair, setPlug_plug]
  generalize s.plug a = c
  generalize s.plug b = d
  split_ifs <;> simp_all

/-- Plugboard edits change the plugboard only. -/
theorem breakPair_eq (a : Symbol) (s : State) :
    breakPair a s = { s with config := { s.config with plug := (breakPair a s).config.plug } } := rfl

theorem joinPair_eq (a b : Symbol) (s : State) :
    joinPair a b s = { s with config := { s.config with plug := (joinPair a b s).config.plug } } := rfl

/-! ### Stepping -/

section
variable (s : State)

theorem stepSlotIf_eq (b : Bool) (k : Slot) :
    stepSlotIf b k s = if b then s.setOff k (s.off k + 1) else s := by
  simp [stepSlotIf]

@[simp] theorem stepSlotIf_rom (b : Bool) (k : Slot) : (stepSlotIf b k s).rom = s.rom := by cases b <;> rfl
@[simp] theorem stepSlotIf_inputs (b : Bool) (k : Slot) : (stepSlotIf b k s).inputs = s.inputs := by cases b <;> rfl
@[simp] theorem stepSlotIf_responses (b : Bool) (k : Slot) : (stepSlotIf b k s).responses = s.responses := by
  cases b <;> rfl
@[simp] theorem stepSlotIf_configPlug (b : Bool) (k : Slot) : (stepSlotIf b k s).config.plug = s.config.plug := by
  cases b
  · rfl
  · exact withRotor_plug ..
@[simp] theorem stepSlotIf_model (b : Bool) (k j : Slot) : (stepSlotIf b k s).model j = s.model j := by
  cases b
  · rfl
  · exact setOff_model ..
theorem stepSlotIf_off_same (b : Bool) (k : Slot) :
    (stepSlotIf b k s).off k = if b then s.off k + 1 else s.off k := by
  cases b <;> simp [stepSlotIf]
theorem stepSlotIf_off_ne (b : Bool) {k j : Slot} (h : j ≠ k) : (stepSlotIf b k s).off j = s.off j := by
  cases b
  · rfl
  · exact setOff_off_ne _ _ _ h

@[simp] theorem stepRotors_rom : (stepRotors s).rom = s.rom := by simp [stepRotors]
@[simp] theorem stepRotors_inputs : (stepRotors s).inputs = s.inputs := by simp [stepRotors]
@[simp] theorem stepRotors_responses : (stepRotors s).responses = s.responses := by simp [stepRotors]
@[simp] theorem stepRotors_configPlug : (stepRotors s).config.plug = s.config.plug := by simp [stepRotors]
@[simp] theorem stepRotors_plug (x : Symbol) : (stepRotors s).plug x = s.plug x := by simp [State.plug]
@[simp] theorem stepRotors_model (k : Slot) : (stepRotors s).model k = s.model k := by simp [stepRotors]

theorem stepRotors_off_one : (stepRotors s).off .one = s.off .one + 1 := by
  simp [stepRotors, stepSlotIf_off_same, stepSlotIf_off_ne]

theorem stepRotors_off_two :
    (stepRotors s).off .two = if atNotch s .one || atNotch s .two then s.off .two + 1 else s.off .two := by
  simp [stepRotors, stepSlotIf_off_same, stepSlotIf_off_ne]

theorem stepRotors_off_three :
    (stepRotors s).off .three = if atNotch s .two then s.off .three + 1 else s.off .three := by
  simp [stepRotors, stepSlotIf_off_same, stepSlotIf_off_ne]
end

/-! ### Rotor substitutions -/

theorem fwd_eq (s : State) (k : Slot) (x : Symbol) :
    fwd s k x = s.rom.romP (s.model k) (x + s.off k) - s.off k := by
  simp only [fwd, mod26_add, mod26_sub]

theorem inv_eq (s : State) (k : Slot) (x : Symbol) :
    inv s k x = s.rom.romPinv (s.model k) (x + s.off k) - s.off k := by
  simp only [inv, mod26_add, mod26_sub]

/-- The substitution reads the ROM, the rotors and the plugboard, and nothing else. -/
theorem substitute_congr {s t : State} (hr : s.rom = t.rom) (hc : s.config = t.config) (x : Symbol) :
    substitute s x = substitute t x := by
  simp only [substitute, cascadeFwd, cascadeInv, fwd, inv, State.plug, State.model, State.off, hr, hc]

end Sys2Proof.Machine
end

