-- ==== Sys2Proof/Laws/Exec.lean ====
section
/-! SUPPORT. Said once: what an instruction and a step can do. Every arm of `exec` answers a next state that differs
from the one before in the configuration and in one more response; `step` takes one input or refuses the WIRING. -/

namespace Sys2Proof.Machine

/-- One equation per meaning with a legal and an illegal case. -/
theorem execSetPlug_legal (a b : Symbol) (s : State) :
    execSetPlug a.val b.val s = respond .ok 0#5 (if a = b then breakPair a s else joinPair a b s) := by
  simp [execSetPlug]

theorem execGetPlug_legal (a : Symbol) (s : State) :
    execGetPlug a.val s = respond .ok (dataOfSymbol (s.plug a)) s := by
  simp [execGetPlug]

theorem execDisconnect_legal (a : Symbol) (s : State) :
    execDisconnect a.val s = respond .ok 0#5 (breakPair a s) := by
  simp [execDisconnect]

theorem execIsConnected_legal (a : Symbol) (s : State) :
    execIsConnected a.val s = respond .ok (dataOfBool (decide (s.plug a ≠ a))) s := by
  simp [execIsConnected]

theorem execEncryptOneChar_legal (x : Symbol) (s : State) :
    execEncryptOneChar x.val s =
      respond .ok (dataOfSymbol (substitute (stepRotors s) x)) (stepRotors s) := by
  simp [execEncryptOneChar]

/-- A state that differs from `s` in the configuration only, with a response, is `s` after a command. -/
theorem respond_after {s t : State} (hr : t.rom = s.rom) (hi : t.inputs = s.inputs)
    (hp : t.responses = s.responses) (status : Status) (data : BitVec 5) :
    respond status data t = .next (s.after t.config (responseWord status data)) := by
  cases s; cases t
  simp only at hr hi hp
  subst hr hi hp
  rfl

/-- Every meaning ends the command: a next state that differs in the configuration and in one response. -/
theorem exec_next (i : Instr) (s : State) : ∃ c r, exec i s = .next (s.after c r) := by
  cases i with
  | configureMachine m1 p1 m2 p2 m3 p3 =>
    simp only [exec, execConfigureMachine]
    split
    · exact ⟨_, _, respond_after rfl rfl rfl _ _⟩
    · exact ⟨_, _, raise_eq _ _⟩
  | encryptOneChar a =>
    simp only [exec, execEncryptOneChar]
    split
    · exact ⟨_, _, respond_after (stepRotors_rom s) (stepRotors_inputs s) (stepRotors_responses s) _ _⟩
    · exact ⟨_, _, raise_eq _ _⟩
  | getRotorPos slot =>
    simp only [exec, execGetRotorPos]
    split
    · exact ⟨_, _, respond_eq _ _ _⟩
    · exact ⟨_, _, raise_eq _ _⟩
  | setRotor slot pos =>
    simp only [exec, execSetRotor]
    split
    · exact ⟨_, _, respond_after rfl rfl rfl _ _⟩
    · exact ⟨_, _, raise_eq _ _⟩
  | setPlug a b =>
    simp only [exec, execSetPlug]
    split
    · split
      · exact ⟨_, _, respond_after rfl rfl rfl _ _⟩
      · exact ⟨_, _, respond_after rfl rfl rfl _ _⟩
    · exact ⟨_, _, raise_eq _ _⟩
  | getPlug a =>
    simp only [exec, execGetPlug]
    split
    · exact ⟨_, _, respond_eq _ _ _⟩
    · exact ⟨_, _, raise_eq _ _⟩
  | clearPlugboard => exact ⟨_, _, respond_after rfl rfl rfl _ _⟩
  | disconnect a =>
    simp only [exec, execDisconnect]
    split
    · exact ⟨_, _, respond_after rfl rfl rfl _ _⟩
    · exact ⟨_, _, raise_eq _ _⟩
  | isConnected a =>
    simp only [exec, execIsConnected]
    split
    · exact ⟨_, _, respond_eq _ _ _⟩
    · exact ⟨_, _, raise_eq _ _⟩

/-- One command word: a next state that differs in the configuration and in one response. -/
theorem performWord_next (w : Word) (s : State) : ∃ c r, performWord w s = .next (s.after c r) := by
  simp only [performWord]
  split
  · exact exec_next _ _
  · exact ⟨_, _, raise_eq _ _⟩

/-- A machine whose WIRING passes the check takes its next input. -/
theorem step_eq_takeInput {s : State} (h : s.rom.wf = true) : step s = takeInput s := by
  simp [step, stepMachine, h]

/-- What a step that answers a next state did: nothing, one command, or a reset. -/
theorem step_next_cases {s t : State} (h : step s = .next t) :
    s.rom.wf = true ∧
      ((s.inputs = [] ∧ t = s) ∨
       (∃ w rest, s.inputs = .command w :: rest ∧ performWord w { s with inputs := rest } = .next t) ∨
       (∃ rest, s.inputs = .reset :: rest ∧ t = ({ s with inputs := rest }).takeReset)) := by
  by_cases hw : s.rom.wf = true
  · refine ⟨hw, ?_⟩
    rw [step_eq_takeInput hw] at h
    unfold takeInput at h
    split at h
    · next he => exact .inl ⟨he, by cases h; rfl⟩
    · next w rest he => exact .inr (.inl ⟨w, rest, he, h⟩)
    · next rest he => exact .inr (.inr ⟨rest, he, by cases h; rfl⟩)
  · simp [step, stepMachine, hw] at h

/-- No operation writes the ROM (R45): a step leaves it as it is. -/
theorem step_rom {s t : State} (h : step s = .next t) : t.rom = s.rom := by
  obtain ⟨-, ⟨-, rfl⟩ | ⟨w, rest, -, hp⟩ | ⟨rest, -, rfl⟩⟩ := step_next_cases h
  · rfl
  · obtain ⟨c, r, e⟩ := performWord_next w { s with inputs := rest }
    rw [e] at hp
    cases hp
    rfl
  · rfl

end Sys2Proof.Machine
end

