-- ==== Sys2Proof/Laws/PerInstr.lean ====
section
/-! SUPPORT. The family of statements about every instruction as syntax: the word of a well-formed command carries its
opcode's `OP` and sets no reserved bit (spec/30_encoding.md R60 to R64), one lemma per constructor. -/

namespace Sys2Proof.Laws.FormatFit

/-- The encoded word has the command's `OP` in its low four bits and uses no bit beyond its format. -/
def Statement (i : Instr) : Prop :=
  i.wellFormed = true →
    (encode i).toNat % 16 = i.opcode.number ∧ (encode i).toNat < 2 ^ i.opcode.usedBits

theorem configureMachine (m1 p1 m2 p2 m3 p3 : Nat) : Statement (.configureMachine m1 p1 m2 p2 m3 p3) := by
  intro h
  simp only [Instr.wellFormed, fitsModelField, fitsSymbolField, Bool.and_eq_true, decide_eq_true_eq] at h
  obtain ⟨⟨⟨⟨⟨h1, h2⟩, h3⟩, h4⟩, h5⟩, h6⟩ := h
  simp only [encode, formatC_toNat h1 h2 h3 h4 h5 h6, Instr.opcode, Opcode.number, Opcode.usedBits, BitVec.toNat_ofNat]
  omega

theorem encryptOneChar (s : Nat) : Statement (.encryptOneChar s) := by
  intro h
  simp only [Instr.wellFormed, fitsSymbolField, decide_eq_true_eq] at h
  simp only [encode, formatS_toNat h, Instr.opcode, Opcode.number, Opcode.usedBits, BitVec.toNat_ofNat]
  omega

theorem getRotorPos (slot : Nat) : Statement (.getRotorPos slot) := by
  intro h
  simp only [Instr.wellFormed, fitsSlotField, decide_eq_true_eq] at h
  simp only [encode, formatL_toNat h, Instr.opcode, Opcode.number, Opcode.usedBits, BitVec.toNat_ofNat]
  omega

theorem setRotor (slot pos : Nat) : Statement (.setRotor slot pos) := by
  intro h
  simp only [Instr.wellFormed, fitsSlotField, fitsSymbolField, Bool.and_eq_true, decide_eq_true_eq] at h
  simp only [encode, formatLP_toNat h.1 h.2, Instr.opcode, Opcode.number, Opcode.usedBits, BitVec.toNat_ofNat]
  omega

theorem setPlug (a b : Nat) : Statement (.setPlug a b) := by
  intro h
  simp only [Instr.wellFormed, fitsSymbolField, Bool.and_eq_true, decide_eq_true_eq] at h
  simp only [encode, formatSS_toNat h.1 h.2, Instr.opcode, Opcode.number, Opcode.usedBits, BitVec.toNat_ofNat]
  omega

theorem getPlug (a : Nat) : Statement (.getPlug a) := by
  intro h
  simp only [Instr.wellFormed, fitsSymbolField, decide_eq_true_eq] at h
  simp only [encode, formatS_toNat h, Instr.opcode, Opcode.number, Opcode.usedBits, BitVec.toNat_ofNat]
  omega

theorem clearPlugboard : Statement .clearPlugboard := by
  intro _
  decide

theorem disconnect (a : Nat) : Statement (.disconnect a) := by
  intro h
  simp only [Instr.wellFormed, fitsSymbolField, decide_eq_true_eq] at h
  simp only [encode, formatS_toNat h, Instr.opcode, Opcode.number, Opcode.usedBits, BitVec.toNat_ofNat]
  omega

theorem isConnected (a : Nat) : Statement (.isConnected a) := by
  intro h
  simp only [Instr.wellFormed, fitsSymbolField, decide_eq_true_eq] at h
  simp only [encode, formatS_toNat h, Instr.opcode, Opcode.number, Opcode.usedBits, BitVec.toNat_ofNat]
  omega

end Sys2Proof.Laws.FormatFit
end

