-- ==== Sys2Proof/Tests/Slice0.lean ====
section
/-! SUPPORT. Small tests, each expected value taken from the spec (mostly spec/95_test_vectors.md; the row or rule is
named), the smoke test of WellFormed, and a witness for the hypotheses of every statement that has some. -/

namespace Sys2Proof.Tests

open Sys2Proof.Machine

/-! ### Well-formedness: one ill-formed term for each check (R63, R68) -/

theorem smoke_configure_m1 : (Instr.configureMachine 8 0 2 0 3 0).wellFormed = false := by decide
theorem smoke_configure_p1 : (Instr.configureMachine 1 32 2 0 3 0).wellFormed = false := by decide
theorem smoke_configure_m2 : (Instr.configureMachine 1 0 8 0 3 0).wellFormed = false := by decide
theorem smoke_configure_p2 : (Instr.configureMachine 1 0 2 32 3 0).wellFormed = false := by decide
theorem smoke_configure_m3 : (Instr.configureMachine 1 0 2 0 8 0).wellFormed = false := by decide
theorem smoke_configure_p3 : (Instr.configureMachine 1 0 2 0 3 32).wellFormed = false := by decide
theorem smoke_encrypt : (Instr.encryptOneChar 32).wellFormed = false := by decide
theorem smoke_getRotorPos : (Instr.getRotorPos 4).wellFormed = false := by decide
theorem smoke_setRotor_slot : (Instr.setRotor 4 0).wellFormed = false := by decide
theorem smoke_setRotor_pos : (Instr.setRotor 1 32).wellFormed = false := by decide
theorem smoke_setPlug_a : (Instr.setPlug 32 0).wellFormed = false := by decide
theorem smoke_setPlug_b : (Instr.setPlug 0 32).wellFormed = false := by decide
theorem smoke_getPlug : (Instr.getPlug 32).wellFormed = false := by decide
theorem smoke_disconnect : (Instr.disconnect 32).wellFormed = false := by decide
theorem smoke_isConnected : (Instr.isConnected 32).wellFormed = false := by decide

/-! ### Decoding: one word per command, written out bit by bit from the formats of R61 -/

theorem test_decode_configureMachine :
    decode 0b0000_11001_011_11000_100_10100_101_0001#32 = .command (.configureMachine 5 20 4 24 3 25) := by decide
theorem test_decode_encryptOneChar : decode 0b00000000000000000000000_10011_0010#32 = .command (.encryptOneChar 19) := by
  decide
theorem test_decode_getRotorPos : decode 0b00000000000000000000000000_10_0011#32 = .command (.getRotorPos 2) := by decide
theorem test_decode_setRotor : decode 0b000000000000000000000_11010_01_0100#32 = .command (.setRotor 1 26) := by decide
theorem test_decode_setPlug : decode 0b000000000000000000_00001_11000_0101#32 = .command (.setPlug 24 1) := by decide
theorem test_decode_getPlug : decode 0b00000000000000000000000_11111_0110#32 = .command (.getPlug 31) := by decide
theorem test_decode_clearPlugboard : decode 0b0000000000000000000000000000_0111#32 = .command .clearPlugboard := by decide
theorem test_decode_disconnect : decode 0b00000000000000000000000_00100_1000#32 = .command (.disconnect 4) := by decide
theorem test_decode_isConnected : decode 0b00000000000000000000000_00010_1001#32 = .command (.isConnected 2) := by decide

/-- 95_test_vectors.md 2.6: the illegal words of the table. -/
theorem test_decode_illegal :
    ([0x00000000#32, 0x0000000A#32, 0xFFFFFFFF#32, 0x00000040#32].map decode = List.replicate 4 (.illegal .unassignedOpcode)) ∧
    [0x80000002#32, 0x000003A2#32, 0x10000001#32, 0x10000061#32, 0x00000017#32].map decode
      = List.replicate 5 (.illegal .reservedBitSet) := by decide

/-- R74: the encoder gives the words of the examples. -/
theorem test_encode_examples :
    encode (.configureMachine 3 20 2 3 1 0) = 0x0011AA31#32 ∧ encode (.setRotor 2 4) = 0x00000124#32 ∧
    encode (.setPlug 0 25) = 0x00003205#32 ∧ encode (.isConnected 25) = 0x00000199#32 := by decide

/-- R49: byte 0 is the least significant one. -/
theorem test_decode_bytes :
    decodeBytes [0x31#8, 0xAA#8, 0x11#8, 0x00#8, 0x07#8] = some (.command (.configureMachine 3 20 2 3 1 0), [0x07#8]) ∧
    decodeBytes [0x07#8, 0x00#8, 0x00#8] = none := by decide

/-! ### A state to run on -/

/-- The reset state with other rotors. -/
def withRotors (m1 : ModelId) (o1 : Symbol) (m2 : ModelId) (o2 : Symbol) (m3 : ModelId) (o3 : Symbol) : State :=
  { State.reset with config := ⟨⟨m1, o1⟩, ⟨m2, o2⟩, ⟨m3, o3⟩, Table.identity⟩ }

/-- The reset state with one pair plugged. -/
def withPair (a b : Symbol) : State := (State.reset.setPlug a b).setPlug b a

/-- The reset state with inputs presented. -/
def withInputs (inputs : List HostInput) : State := { State.reset with inputs := inputs }

/-- A wiring whose reflector is the identity: it breaks R44. -/
def unlawfulWiring : Wiring := { wiringHist with reflector := Table.identity }

/-- What can be looked at after a command: its response and the three offsets. -/
def outcome (r : Result) : Option (List Word × Symbol × Symbol × Symbol) :=
  (nextState? r).map fun s => (s.responses, s.off .one, s.off .two, s.off .three)

/-- The response of a command, and the plugboard entries of `A`, `B` and `Z` after it. -/
def plugOutcome (r : Result) : Option (List Word × Symbol × Symbol × Symbol) :=
  (nextState? r).map fun s => (s.responses, s.plug 0, s.plug 1, s.plug 25)

/-! ### One step of each command -/

/-- E1, and the trace of R132. -/
theorem test_encrypt_from_reset :
    outcome (exec (.encryptOneChar 0) State.reset) = some ([0x00000014#32], 1, 0, 0) := by decide

/-- E8: both notches at once, rotor 2 steps once, rotor 3 wraps; A gives C. -/
theorem test_encrypt_double_step :
    outcome (exec (.encryptOneChar 0) (withRotors .i 16 .ii 4 .iii 25)) = some ([0x00000008#32], 17, 5, 0) := by decide

/-- R108: from (15, 3, 0) the naive rule would give (16, 4, 1). -/
theorem test_step_not_naive :
    let s := stepRotors (withRotors .i 15 .ii 3 .iii 0)
    (s.off .one, s.off .two, s.off .three) = (16, 3, 0) := by decide

/-- R120's example, and row 5 of 95_test_vectors.md 2.1: model 3 at 13 sends N to O forward and N to G inverse. -/
theorem test_rotor_substitutions :
    fwd (withRotors .i 25 .iii 13 .v 25) .one 3 = 13 ∧ fwd (withRotors .i 25 .iii 13 .v 25) .two 13 = 14 ∧
    inv (withRotors .i 25 .iii 13 .v 25) .two 13 = 6 ∧ fwd (withRotors .i 25 .iii 13 .v 25) .three 25 = 3 := by decide

/-- K1. -/
theorem test_configure :
    (nextState? (exec (.configureMachine 3 20 2 3 1 0) State.reset)).map (·.config) =
      some (withRotors .iii 20 .ii 3 .i 0).config := by decide

/-- K4: one bad position, nothing written. -/
theorem test_configure_bad_position :
    nextState? (exec (.configureMachine 5 1 5 1 5 26) State.reset) =
      some { State.reset with responses := [0x00000001#32] } := by decide

/-- K10. -/
theorem test_setRotor_slot3 : outcome (exec (.setRotor 3 25) State.reset) = some ([0#32], 0, 0, 25) := by decide

/-- K8: slot 0. -/
theorem test_setRotor_slot0 : outcome (exec (.setRotor 0 5) State.reset) = some ([0x00000001#32], 0, 0, 0) := by decide

/-- PR4: GET_ROTOR_POS 1 at offset 17 answers 0x44. -/
theorem test_getRotorPos :
    outcome (exec (.getRotorPos 1) (withRotors .i 17 .ii 4 .iii 0)) = some ([0x00000044#32], 17, 4, 0) := by decide

/-- B2: SET_PLUG A,B takes A from Z. -/
theorem test_setPlug_takes_over :
    plugOutcome (exec (.setPlug 0 1) (withPair 0 25)) = some ([0#32], 1, 0, 25) := by decide

/-- B8: SET_PLUG of a letter with itself disconnects it. -/
theorem test_setPlug_same_letter :
    plugOutcome (exec (.setPlug 25 25) (withPair 0 25)) = some ([0#32], 0, 1, 25) := by decide

/-- B3: an unplugged Z answers Z. -/
theorem test_getPlug : plugOutcome (exec (.getPlug 25) (withPair 0 1)) = some ([0x00000064#32], 1, 0, 25) := by decide

/-- B17. -/
theorem test_clearPlugboard : plugOutcome (exec .clearPlugboard (withPair 0 25)) = some ([0#32], 0, 1, 25) := by decide

/-- R85's example: either member unplugs both. -/
theorem test_disconnect : plugOutcome (exec (.disconnect 25) (withPair 0 25)) = some ([0#32], 0, 1, 25) := by decide

/-- R86's example: IS_CONNECTED Z answers 1. -/
theorem test_isConnected : plugOutcome (exec (.isConnected 25) (withPair 0 25)) = some ([0x00000004#32], 25, 1, 0) := by
  decide

/-- E10: symbol 26 is not wrapped to A and does not step. -/
theorem test_encrypt_bad_symbol :
    outcome (exec (.encryptOneChar 26) State.reset) = some ([0x00000002#32], 0, 0, 0) := by decide

/-! ### The step, reset, and the host's side -/

/-- PR3: ENCRYPT_ONE_CHAR A with bit 31 set is illegal and does not step. -/
theorem test_step_illegal_word :
    outcome (step (State.reset.withFetchWord 32 0x80000002)) = some ([0x00000003#32], 0, 0, 0) := by decide

/-- The presented word is the one that runs (K7). -/
theorem test_step_presented_word :
    outcome (step (State.reset.withFetchWord 32 0x00000124)) = some ([0#32], 0, 4, 0) := by decide

/-- R180, R181: the reset input answers nothing and restores the default. -/
theorem test_reset_input :
    outcome (step { withRotors .v 1 .v 2 .v 3 with inputs := [.reset] }) = some ([], 0, 0, 0) := by decide

/-- U6: an ill-formed WIRING is not run. -/
theorem test_unlawful_wiring_refused : nextState? (step { withInputs [.command 2#32] with rom := unlawfulWiring }) = none := by
  decide

/-- R73, R74: the notation. -/
theorem test_assemble :
    (assembleLine "SET_PLUG A, Z ; swap".toList).toOption = some [0x00003205#32] ∧
    (assembleLine "SET_PLUG A, 26".toList).toOption = some [0x00003405#32] := by decide

/-- R73: ENCRYPT_TEXT; the words of program PR1. -/
theorem test_assemble_text :
    (assembleLine "ENCRYPT_TEXT \"HEL\"".toList).toOption = some [0x00000072#32, 0x00000042#32, 0x000000B2#32] ∧
    (assembleLine "CONNECT A, A".toList).toOption = none := by decide

/-- R68: the host-side encoder does not truncate 26 + 32 to a legal-looking word. -/
theorem test_host_encoder :
    (hostEncode (.encryptOneChar 58)).toOption = none ∧ (hostEncode (.encryptOneChar (-1))).toOption = none ∧
    (hostEncode (.encryptOneChar 26)).toOption = some 0x000001A2#32 := by decide

/-! ### Witnesses: what each statement assumes can hold -/

theorem witness_DecodeEncodeRoundTrip :
    (Instr.configureMachine 7 31 7 31 7 31).wellFormed = true ∧ (Instr.setRotor 3 31).wellFormed = true ∧
    (Instr.setPlug 31 31).wellFormed = true ∧ (Instr.encryptOneChar 31).wellFormed = true := by decide

theorem witness_EncodeDecodeRoundTrip : decode 0x0FFFFFF1#32 = .command (.configureMachine 7 31 7 31 7 31) := by decide

/-- Each clause at its largest operands. -/
theorem witness_FieldPositionsOfEveryCommand :
    ((7 < 8 ∧ 31 < 32) ∧ decode (BitVec.ofNat 32
      (1 + 2 ^ 4 * 7 + 2 ^ 7 * 31 + 2 ^ 12 * 7 + 2 ^ 15 * 31 + 2 ^ 20 * 7 + 2 ^ 23 * 31)) =
        .command (.configureMachine 7 31 7 31 7 31)) ∧
    decode (BitVec.ofNat 32 (9 + 2 ^ 4 * 31)) = .command (.isConnected 31) ∧
    decode (BitVec.ofNat 32 (3 + 2 ^ 4 * 3)) = .command (.getRotorPos 3) ∧
    decode (BitVec.ofNat 32 (4 + 2 ^ 4 * 3 + 2 ^ 6 * 31)) = .command (.setRotor 3 31) ∧
    decode (BitVec.ofNat 32 (5 + 2 ^ 4 * 31 + 2 ^ 9 * 31)) = .command (.setPlug 31 31) := by decide

/-- Each clause of R163 at a boundary word, and words just inside that are legal. -/
theorem witness_IllegalWordsAreExactlyThoseOfTheRules :
    IllegalBits 0x00000000#32 ∧ IllegalBits 0x0000000A#32 ∧ IllegalBits 0x10000001#32 ∧ IllegalBits 0x00000202#32 ∧
    IllegalBits 0x00000043#32 ∧ IllegalBits 0x00000804#32 ∧ IllegalBits 0x00004005#32 ∧ IllegalBits 0x00000017#32 ∧
    IllegalBits 0x00000206#32 ∧ IllegalBits 0x00000208#32 ∧ IllegalBits 0x00000209#32 ∧
    ¬ IllegalBits 0x0FFFFFF1#32 ∧ ¬ IllegalBits 0x000001F9#32 ∧ ¬ IllegalBits 0x00003FF5#32 := by
  and_intros <;> (unfold IllegalBits; decide)

theorem witness_StepRunsDecodedCommand :
    (withInputs [.command 2#32]).rom.wf = true ∧ (withInputs [.command 2#32]).inputs = .command 2#32 :: [] ∧
    decode 2#32 = .command (.encryptOneChar 0) := ⟨wiringHist_wf, rfl, by decide⟩

theorem witness_StepRejectsIllegalWord :
    (withInputs [.command 0x10000061#32]).rom.wf = true ∧
    (withInputs [.command 0x10000061#32]).inputs = .command 0x10000061#32 :: [] ∧ IllegalBits 0x10000061#32 :=
  ⟨wiringHist_wf, rfl, by unfold IllegalBits; decide⟩

theorem witness_ResetSetsEveryPieceOfState :
    (withInputs [.reset]).rom.wf = true ∧ (withInputs [.reset]).inputs = .reset :: [] := ⟨wiringHist_wf, rfl⟩

theorem witness_IdleStepChangesNothing : State.reset.rom.wf = true ∧ State.reset.inputs = [] := ⟨wiringHist_wf, rfl⟩

/-- The laws hold of the default instance. -/
theorem lawful_wiringHist : Lawful wiringHist := by
  obtain ⟨h1, h2, h3, h4⟩ := (wiringWf_iff wiringHist).mp wiringHist_wf
  exact ⟨fun m => ⟨Function.LeftInverse.injective (h1 m), Function.RightInverse.surjective (h2 m)⟩, h1, h2, h3, h4⟩

/-- Both directions of the equivalence have an instance. -/
theorem witness_StepRefusesExactlyUnlawfulWiring :
    Lawful State.reset.rom ∧ ¬ Lawful ({ State.reset with rom := unlawfulWiring } : State).rom :=
  ⟨lawful_wiringHist, fun h => h.reflector_no_fixed_point 0 (by decide)⟩

/-- Each clause: a command in front, and none. -/
theorem witness_EveryStepCompletes :
    Lawful (withInputs [.command 2#32]).rom ∧ (withInputs [.command 2#32]).inputs = .command 2#32 :: [] ∧
    Lawful (withInputs [.reset]).rom ∧ ∀ w rest, (withInputs [.reset]).inputs ≠ .command w :: rest :=
  ⟨lawful_wiringHist, rfl, lawful_wiringHist, fun w rest h => by simp [withInputs] at h⟩

theorem witness_RunIsFoldOfTransactions : wiringHist.wf = true := wiringHist_wf

/-- The invariant holds of the reset state. -/
theorem inv_reset : State.reset.Inv where
  rom_wf := wiringHist_wf
  config_inv := {
    rotors_legal := fun k => by cases k <;> exact ⟨rfl, rfl⟩
    plug_involutive := fun x => by simp }

theorem witness_StepKeepsInv : State.reset.Inv ∧ step State.reset = .next State.reset :=
  ⟨inv_reset, by simp [step_eq_takeInput (s := State.reset) wiringHist_wf, takeInput]⟩

theorem witness_InvolutivePlugboardIsWholePairs :
    PlugInvolutive (withPair 0 25).config.plug ∧ (0 : Symbol) ∈ pluggedSymbols (withPair 0 25).config.plug := by
  unfold PlugInvolutive; decide

/-- Each clause: legal and illegal operands. -/
theorem witness_CommandSucceedsOrChangesNothing :
    operandsLegal (.setRotor 3 25) = true ∧ operandsLegal (.setRotor 3 26) = false ∧
    operandsLegal (.setRotor 0 25) = false ∧ operandsLegal (.configureMachine 5 25 1 0 5 25) = true ∧
    operandsLegal (.configureMachine 6 25 1 0 5 25) = false := by decide

/-- Each clause: an error, a command with no output, a symbol output, a yes-or-no output. -/
theorem witness_ResponseWordShape :
    statusOf 0x00000002#32 ≠ .ok ∧ (Instr.setPlug 0 1).opcode = .setPlug ∧
    (Instr.getPlug 0).opcode = .getPlug ∧ (Instr.isConnected 0).opcode = .isConnected := by decide

/-- Each clause: a command outside the writers of models, of offsets, of the plugboard. -/
theorem witness_AccessMatrixWrites :
    (Instr.setRotor 1 0).opcode ≠ .configureMachine ∧
    ((Instr.setPlug 0 1).opcode ≠ .configureMachine ∧ (Instr.setPlug 0 1).opcode ≠ .encryptOneChar ∧
      (Instr.setPlug 0 1).opcode ≠ .setRotor) ∧
    ((Instr.encryptOneChar 0).opcode ≠ .setPlug ∧ (Instr.encryptOneChar 0).opcode ≠ .clearPlugboard ∧
      (Instr.encryptOneChar 0).opcode ≠ .disconnect) := by decide

/-- Each clause: states that share the plugboard and no rotor, and states that share the offsets and no model. -/
theorem witness_AccessMatrixReads :
    (isPlugboardCommand (.getPlug 0) = true ∧
      State.reset.config.plug = (withRotors .v 1 .v 2 .v 3).config.plug ∧ State.reset.off .one ≠ (withRotors .v 1 .v 2 .v 3).off .one) ∧
    (isRotorCommand (.getRotorPos 1) = true ∧ (∀ k, State.reset.off k = (withRotors .v 0 .v 0 .v 0).off k) ∧
      State.reset.model .one ≠ (withRotors .v 0 .v 0 .v 0).model .one) :=
  ⟨⟨by decide, rfl, by decide⟩, ⟨by decide, fun k => by cases k <;> rfl, by decide⟩⟩

theorem witness_CommandSeesOnlyConfigurationAndWiring :
    State.reset.rom = (withInputs [.reset]).rom ∧ State.reset.config = (withInputs [.reset]).config ∧
    State.reset.inputs ≠ (withInputs [.reset]).inputs := ⟨rfl, rfl, by decide⟩

theorem witness_OnlyEncryptIsNotIdempotent :
    (Instr.disconnect 0).opcode ≠ .encryptOneChar ∧ (Instr.getRotorPos 1).opcode = .getRotorPos := by decide

theorem witness_RotorAndPlugboardCommandsCommute :
    isRotorCommand (.setRotor 1 5) = true ∧ isPlugboardCommand (.setPlug 0 1) = true := by decide

theorem witness_LaterSetPlugTakesThePartner :
    (0 : Symbol) ≠ 1 ∧ (0 : Symbol) ≠ 25 ∧ (1 : Symbol) ≠ 25 := by decide

theorem witness_RejectedCommandLeavesNoTrace :
    transact wiringHist Configuration.reset 0x000001A2#32 = some (Configuration.reset, 0x00000002#32) ∧
    statusOf 0x00000002#32 ≠ .ok := by decide

theorem witness_StreamIsErrorFreeIffOperandsLegal :
    wiringHist.wf = true ∧ ∀ i ∈ [Instr.encryptOneChar 31, .setRotor 3 31], i.wellFormed = true :=
  ⟨wiringHist_wf, by decide⟩

/-- Each clause at a boundary symbol: two symbols, and 26 in either place. -/
theorem witness_SetPlugMeaning : (0 : Symbol) ≠ 25 ∧ (25 < 26 ∨ 25 < 0) ∧ (25 < 0 ∨ 25 < 26) := by decide

theorem witness_GetPlugMeaning : 25 < 26 ∧ (25 : Symbol).val = 25 := by decide
theorem witness_DisconnectMeaning : 25 < 31 ∧ (0 : Symbol).val = 0 := by decide
theorem witness_IsConnectedMeaning : 25 < 26 ∧ (25 : Symbol).val = 25 := by decide

/-- Each way to be illegal, at the boundary. -/
theorem witness_ConfigureMachineMeaning :
    ¬ (1 ≤ 0 ∧ 0 ≤ 5) ∧ ¬ (1 ≤ 6 ∧ 6 ≤ 5) ∧ 25 < 26 ∧ ModelId.number .i = 1 ∧ ModelId.number .v = 5 := by decide

theorem witness_SetRotorMeaning : (0 = 0 ∨ 3 < 0 ∨ 25 < 0) ∧ (4 = 0 ∨ 3 < 4 ∨ 25 < 0) ∧ (1 = 0 ∨ 3 < 1 ∨ 25 < 26) := by
  decide
theorem witness_GetRotorPosMeaning : (0 = 0 ∨ 3 < 0) ∧ (4 = 0 ∨ 3 < 4) := by decide
theorem witness_EncryptMeaning : 25 < 26 ∧ (25 : Symbol).val = 25 := by decide

/-- Each flag on and off. -/
theorem witness_EncryptStepsRotors :
    (State.reset.off .one ≠ State.reset.rom.romN (State.reset.model .one) ∧
      State.reset.off .two ≠ State.reset.rom.romN (State.reset.model .two)) ∧
    let s := withRotors .i 16 .ii 4 .iii 25
    s.off .one = s.rom.romN (s.model .one) ∧ s.off .two = s.rom.romN (s.model .two) := by decide

/-- R107's example: models 3, 2, 1 at (21, 3, 0). -/
theorem witness_DoubleStepOverTwoKeystrokes :
    let s := withRotors .iii 21 .ii 3 .i 0
    s.off .one = s.rom.romN (s.model .one) ∧ s.off .two + 1 = s.rom.romN (s.model .two) := by decide

/-- Another notch for rotor III, which stands in slot 3. -/
def otherThirdNotch : State :=
  { State.reset with rom := { wiringHist with
      rotors := #v[rotorI, rotorII, { rotorIII with notch := 0 }, rotorIV, rotorV] } }

theorem witness_RotorThreeNotchNeverRead :
    State.reset.config = otherThirdNotch.config ∧
    (∀ m i, State.reset.rom.romP m i = otherThirdNotch.rom.romP m i) ∧
    (∀ m i, State.reset.rom.romPinv m i = otherThirdNotch.rom.romPinv m i) ∧
    (∀ i, State.reset.rom.romRef i = otherThirdNotch.rom.romRef i) ∧
    State.reset.rom.romN (State.reset.model .one) = otherThirdNotch.rom.romN (State.reset.model .one) ∧
    State.reset.rom.romN (State.reset.model .two) = otherThirdNotch.rom.romN (State.reset.model .two) ∧
    State.reset.rom.romN (State.reset.model .three) ≠ otherThirdNotch.rom.romN (State.reset.model .three) :=
  ⟨rfl, fun m i => by cases m <;> rfl, fun m i => by cases m <;> rfl, fun _ => rfl, by decide, by decide, by decide⟩

theorem witness_RotorSubstitutionsMutuallyInverse : State.reset.rom.wf = true := wiringHist_wf
theorem witness_EncryptionIsFixedPointFreeInvolution : State.reset.Inv := inv_reset
theorem witness_DecryptionRecoversTheMessage : wiringHist.wf = true ∧ Configuration.reset.Inv :=
  ⟨wiringHist_wf, inv_reset.config_inv⟩
theorem witness_ReflectorIsThirteenPairs : Lawful wiringHist := lawful_wiringHist
theorem witness_InverseTableIsDetermined :
    Lawful wiringHist ∧ Lawful wiringHist ∧ ∀ i, wiringHist.romP .i i = wiringHist.romP .i i :=
  ⟨lawful_wiringHist, lawful_wiringHist, fun _ => rfl⟩
theorem witness_SoftwareResetReachesResetConfiguration : wiringHist.wf = true := wiringHist_wf

/-- Each clause: a call that is sent, and one that is rejected. -/
theorem witness_HostEncoderNeverTruncates :
    hostEncode (.setPlug 0 31) = .ok 0x00003E05#32 ∧ hostEncode (.setPlug 0 32) = .error .invalidSymbolError :=
  ⟨rfl, rfl⟩

/-- Each clause at the ends of its range: operands that fit, and one that does not. -/
theorem witness_PseudoInstructionExpansions :
    (0 < 32 ∧ 31 < 32 ∧ 0 ≠ 31) ∧
    ((31 : Int) ≠ 32 ∧ ((31 : Int) < 0 ∨ 31 < (31 : Int) ∨ (32 : Int) < 0 ∨ 31 < (32 : Int))) ∧
    ((31 : Int) < 0 ∨ 31 < (31 : Int) ∨ (0 : Int) < 0 ∨ 31 < (0 : Int) ∨ (-1 : Int) < 0 ∨ 31 < (-1 : Int)) := by decide

theorem witness_InstancesAreIndependent :
    stepInstance [State.reset, withInputs [.reset]] ⟨1, by decide⟩ = .next [State.reset, State.reset] := by
  have h : step (withInputs [.reset]) = .next State.reset :=
    (step_eq_takeInput (s := withInputs [.reset]) wiringHist_wf).trans rfl
  simp [stepInstance, h]

end Sys2Proof.Tests
end

/-! PROOFS. What every command does, said once: the effect of a command, read by every proof about commands. -/

namespace Sys2Proof.Machine

/-! ### Operand checks and the operands they let through -/

theorem isSym_eq_isSome (v : Nat) : isSym v = (symbol? v).isSome := by
  cases h : symbol? v with
  | none => have := symbol?_eq_none.mp h; simp [isSym]; omega
  | some x => have := symbol?_eq_some.mp h; simp [isSym]; omega

theorem isModel_eq_isSome (v : Nat) : isModel v = (model? v).isSome := by
  rcases v with _ | _ | _ | _ | _ | _ | v <;> simp [isModel, model?]

theorem isSlot_eq_isSome (v : Nat) : isSlot v = (slot? v).isSome := by
  rcases v with _ | _ | _ | _ | v <;> simp [isSlot, slot?]

theorem exists_symbol_of_isSym {v : Nat} (h : isSym v = true) : ∃ x : Symbol, x.val = v := by
  rw [isSym_eq_isSome, Option.isSome_iff_exists] at h
  exact h.imp fun _ => symbol?_eq_some.mp

theorem exists_model_of_isModel {v : Nat} (h : isModel v = true) : ∃ m : ModelId, m.number = v := by
  rw [isModel_eq_isSome, Option.isSome_iff_exists] at h
  exact h.imp fun _ => model?_eq_some.mp

theorem exists_slot_of_isSlot {v : Nat} (h : isSlot v = true) : ∃ k : Slot, slotNumber k = v := by
  rw [isSlot_eq_isSome, Option.isSome_iff_exists] at h
  exact h.imp fun _ => slot?_eq_some.mp

@[simp] theorem slot?_slotNumber (k : Slot) : slot? (slotNumber k) = some k := slot?_eq_some.mpr rfl

/-! ### The effect of a command -/

/-- `Effect i status data edit`: on every state `s` the command `i` answers `status` with DATA `data s` and leaves
`edit s`. One constructor per way a command can end: `rejected` for illegal operands (R160, R162), the others for the
legal operands they name. -/
inductive Effect : Instr → Status → (State → BitVec 5) → (State → State) → Prop
  | rejected {i : Instr} {e : ErrorClass} (illegal : operandsLegal i = false)
      (errorClass : operandErrorClass i = some e) :
      Effect i e.status (fun _ => 0#5) id
  | configureMachine (m1 m2 m3 : ModelId) (o1 o2 o3 : Symbol) :
      Effect (.configureMachine m1.number o1.val m2.number o2.val m3.number o3.val) .ok (fun _ => 0#5)
        fun s => ((s.setRotorInstance .one m1 o1).setRotorInstance .two m2 o2).setRotorInstance .three m3 o3
  | encryptOneChar (x : Symbol) :
      Effect (.encryptOneChar x.val) .ok (fun s => dataOfSymbol (substitute (stepRotors s) x)) stepRotors
  | getRotorPos (k : Slot) : Effect (.getRotorPos (slotNumber k)) .ok (fun s => dataOfSymbol (s.off k)) id
  | setRotor (k : Slot) (o : Symbol) :
      Effect (.setRotor (slotNumber k) o.val) .ok (fun _ => 0#5) fun s => s.setOff k o
  | setPlugSame (a : Symbol) : Effect (.setPlug a.val a.val) .ok (fun _ => 0#5) (breakPair a)
  | setPlugPair {a b : Symbol} (distinct : a ≠ b) : Effect (.setPlug a.val b.val) .ok (fun _ => 0#5) (joinPair a b)
  | getPlug (a : Symbol) : Effect (.getPlug a.val) .ok (fun s => dataOfSymbol (s.plug a)) id
  | clearPlugboard : Effect .clearPlugboard .ok (fun _ => 0#5) State.clearPlugs
  | disconnect (a : Symbol) : Effect (.disconnect a.val) .ok (fun _ => 0#5) (breakPair a)
  | isConnected (a : Symbol) : Effect (.isConnected a.val) .ok (fun s => dataOfBool (decide (s.plug a ≠ a))) id

/-- Illegal operands: every command raises its class (R160, R162). -/
theorem exec_illegal {i : Instr} {e : ErrorClass} (illegal : operandsLegal i = false)
    (errorClass : operandErrorClass i = some e) (s : State) : exec i s = raise e s := by
  cases i <;> simp only [operandErrorClass, Option.some.injEq, reduceCtorEq] at errorClass <;> subst errorClass
  case configureMachine =>
    simp only [exec, execConfigureMachine]
    split
    · simp_all [operandsLegal, isSym_eq_isSome, isModel_eq_isSome]
    · rfl
  case setRotor =>
    simp only [exec, execSetRotor]
    split
    · simp_all [operandsLegal, isSym_eq_isSome, isSlot_eq_isSome]
    · rfl
  case setPlug =>
    simp only [exec, execSetPlug]
    split
    · simp_all [operandsLegal, isSym_eq_isSome]
    · rfl
  all_goals
    simp only [operandsLegal, isSym_eq_isSome, isSlot_eq_isSome, Option.isSome_eq_false_iff,
      Option.isNone_iff_eq_none] at illegal
    simp only [exec, execEncryptOneChar, execGetRotorPos, execGetPlug, execDisconnect, execIsConnected, illegal]

/-- The tie to the model: `exec` of a command is its effect. -/
theorem exec_effect (i : Instr) :
    ∃ status data edit, Effect i status data edit ∧ ∀ s, exec i s = respond status (data s) (edit s) := by
  cases legal : operandsLegal i with
  | false =>
    obtain ⟨e, he⟩ : ∃ e, operandErrorClass i = some e := by
      cases i <;> simp [operandErrorClass, operandsLegal] at legal ⊢
    exact ⟨_, _, _, .rejected legal he, exec_illegal legal he⟩
  | true =>
    cases i with
    | configureMachine m1 p1 m2 p2 m3 p3 =>
      simp only [operandsLegal, Bool.and_eq_true] at legal
      obtain ⟨⟨⟨⟨⟨hm1, hm2⟩, hm3⟩, hp1⟩, hp2⟩, hp3⟩ := legal
      obtain ⟨m1, rfl⟩ := exists_model_of_isModel hm1
      obtain ⟨m2, rfl⟩ := exists_model_of_isModel hm2
      obtain ⟨m3, rfl⟩ := exists_model_of_isModel hm3
      obtain ⟨o1, rfl⟩ := exists_symbol_of_isSym hp1
      obtain ⟨o2, rfl⟩ := exists_symbol_of_isSym hp2
      obtain ⟨o3, rfl⟩ := exists_symbol_of_isSym hp3
      exact ⟨_, _, _, .configureMachine m1 m2 m3 o1 o2 o3, fun s => by simp [exec, execConfigureMachine]⟩
    | encryptOneChar a =>
      obtain ⟨x, rfl⟩ := exists_symbol_of_isSym legal
      exact ⟨_, _, _, .encryptOneChar x, execEncryptOneChar_legal x⟩
    | getRotorPos slot =>
      obtain ⟨k, rfl⟩ := exists_slot_of_isSlot legal
      exact ⟨_, _, _, .getRotorPos k, fun s => by simp [exec, execGetRotorPos]⟩
    | setRotor slot pos =>
      obtain ⟨hk, hp⟩ := Bool.and_eq_true_iff.mp legal
      obtain ⟨k, rfl⟩ := exists_slot_of_isSlot hk
      obtain ⟨o, rfl⟩ := exists_symbol_of_isSym hp
      exact ⟨_, _, _, .setRotor k o, fun s => by simp [exec, execSetRotor]⟩
    | setPlug a b =>
      obtain ⟨ha, hb⟩ := Bool.and_eq_true_iff.mp legal
      obtain ⟨a, rfl⟩ := exists_symbol_of_isSym ha
      obtain ⟨b, rfl⟩ := exists_symbol_of_isSym hb
      by_cases hab : a = b
      · subst hab
        exact ⟨_, _, _, .setPlugSame a, fun s => by simp [exec, execSetPlug_legal]⟩
      · exact ⟨_, _, _, .setPlugPair hab, fun s => by simp [exec, execSetPlug_legal, hab]⟩
    | getPlug a =>
      obtain ⟨x, rfl⟩ := exists_symbol_of_isSym legal
      exact ⟨_, _, _, .getPlug x, execGetPlug_legal x⟩
    | clearPlugboard => exact ⟨_, _, _, .clearPlugboard, fun _ => rfl⟩
    | disconnect a =>
      obtain ⟨x, rfl⟩ := exists_symbol_of_isSym legal
      exact ⟨_, _, _, .disconnect x, execDisconnect_legal x⟩
    | isConnected a =>
      obtain ⟨x, rfl⟩ := exists_symbol_of_isSym legal
      exact ⟨_, _, _, .isConnected x, execIsConnected_legal x⟩

/-! ### What an effect leaves unchanged (R27, R45) -/

section
variable {i : Instr} {status : Status} {data : State → BitVec 5} {edit : State → State}

theorem Effect.edit_rom (h : Effect i status data edit) (s : State) : (edit s).rom = s.rom := by
  cases h with
  | encryptOneChar => exact stepRotors_rom s
  | _ => rfl

theorem Effect.edit_inputs (h : Effect i status data edit) (s : State) : (edit s).inputs = s.inputs := by
  cases h with
  | encryptOneChar => exact stepRotors_inputs s
  | _ => rfl

theorem Effect.edit_responses (h : Effect i status data edit) (s : State) : (edit s).responses = s.responses := by
  cases h with
  | encryptOneChar => exact stepRotors_responses s
  | _ => rfl

/-- An effect writes the configuration and one response, and nothing else. -/
theorem Effect.respond_eq_after (h : Effect i status data edit) (s : State) :
    respond status (data s) (edit s) = .next (s.after (edit s).config (responseWord status (data s))) :=
  respond_after (h.edit_rom s) (h.edit_inputs s) (h.edit_responses s) _ _

theorem Effect.edit_model (h : Effect i status data edit) (hi : i.opcode ≠ .configureMachine) (s : State) (k : Slot) :
    (edit s).model k = s.model k := by
  cases h with
  | configureMachine => exact absurd rfl hi
  | encryptOneChar => exact stepRotors_model s k
  | setRotor j o => exact setOff_model s j o k
  | _ => rfl

theorem Effect.edit_off (h : Effect i status data edit) (hc : i.opcode ≠ .configureMachine)
    (he : i.opcode ≠ .encryptOneChar) (hr : i.opcode ≠ .setRotor) (s : State) (k : Slot) :
    (edit s).off k = s.off k := by
  cases h with
  | configureMachine => exact absurd rfl hc
  | encryptOneChar => exact absurd rfl he
  | setRotor => exact absurd rfl hr
  | _ => rfl

theorem Effect.edit_plug (h : Effect i status data edit) (hs : i.opcode ≠ .setPlug)
    (hc : i.opcode ≠ .clearPlugboard) (hd : i.opcode ≠ .disconnect) (s : State) :
    (edit s).config.plug = s.config.plug := by
  cases h with
  | setPlugSame => exact absurd rfl hs
  | setPlugPair => exact absurd rfl hs
  | clearPlugboard => exact absurd rfl hc
  | disconnect => exact absurd rfl hd
  | encryptOneChar => exact stepRotors_configPlug s
  | setRotor k => exact withRotor_plug _ k _
  | _ => rfl
end

/-- `exec` of a command, with its frame: the configuration of its effect and one more response. -/
theorem exec_eq_after (i : Instr) : ∃ status data edit, Effect i status data edit ∧
    ∀ s, exec i s = .next (s.after (edit s).config (responseWord status (data s))) := by
  obtain ⟨status, data, edit, h, he⟩ := exec_effect i
  exact ⟨status, data, edit, h, fun s => (he s).trans (h.respond_eq_after s)⟩

end Sys2Proof.Machine

/-! PROOFS. What an effect reads (R27, R88, R131): the configuration and the ROM, or only one half of it. -/

namespace Sys2Proof.Machine

theorem atNotch_congr {s s' : State} (hr : s.rom = s'.rom) (hc : s.config = s'.config) (k : Slot) :
    atNotch s k = atNotch s' k :=
  decide_eq_decide.mpr (by simp only [State.off, State.model, hr, hc])

theorem stepSlotIf_config_congr {s s' : State} (hc : s.config = s'.config) (b : Bool) (k : Slot) :
    (stepSlotIf b k s).config = (stepSlotIf b k s').config := by
  cases b
  · exact hc
  · simp [stepSlotIf, State.off, State.model, hc]

theorem stepRotors_config_congr {s s' : State} (hr : s.rom = s'.rom) (hc : s.config = s'.config) :
    (stepRotors s).config = (stepRotors s').config := by
  simp only [stepRotors, atNotch_congr hr hc]
  exact stepSlotIf_config_congr (stepSlotIf_config_congr (stepSlotIf_config_congr hc _ _) _ _) _ _

theorem plug_congr {s s' : State} (h : s.config.plug = s'.config.plug) (x : Symbol) : s.plug x = s'.plug x := by
  simp only [State.plug, h]

theorem setPlug_configPlug_congr {s s' : State} (h : s.config.plug = s'.config.plug) (x y : Symbol) :
    (s.setPlug x y).config.plug = (s'.setPlug x y).config.plug := by
  simp only [State.setPlug, h]

theorem breakPair_configPlug_congr {s s' : State} (h : s.config.plug = s'.config.plug) (a : Symbol) :
    (breakPair a s).config.plug = (breakPair a s').config.plug := by
  simp only [breakPair, plug_congr h]
  exact setPlug_configPlug_congr (setPlug_configPlug_congr h _ _) _ _

theorem joinPair_configPlug_congr {s s' : State} (h : s.config.plug = s'.config.plug) (a b : Symbol) :
    (joinPair a b s).config.plug = (joinPair a b s').config.plug := by
  simp only [joinPair, plug_congr h]
  exact setPlug_configPlug_congr
    (setPlug_configPlug_congr (setPlug_configPlug_congr (setPlug_configPlug_congr h _ _) _ _) _ _) _ _

/-- Setting an offset writes the same offsets into states that have the same ones. -/
theorem setOff_off_congr {s s' : State} (h : ∀ j, s.off j = s'.off j) (k : Slot) (o : Symbol) (j : Slot) :
    (s.setOff k o).off j = (s'.setOff k o).off j := by
  by_cases hj : j = k
  · subst hj; simp
  · simp only [setOff_off_ne _ _ _ hj, h]

section
variable {i : Instr} {status : Status} {data : State → BitVec 5} {edit : State → State} {s s' : State}

/-- R131, R168: an effect reads the ROM and the configuration, not the host's inputs or the earlier responses. -/
theorem Effect.congr (h : Effect i status data edit) (hr : s.rom = s'.rom) (hc : s.config = s'.config) :
    data s = data s' ∧ (edit s).config = (edit s').config := by
  obtain ⟨rom, config, inputs, responses⟩ := s
  obtain ⟨rom', config', inputs', responses'⟩ := s'
  simp only at hr hc
  subst hr hc
  cases h with
  | encryptOneChar x =>
    have hstep : (stepRotors ⟨rom, config, inputs, responses⟩).config =
        (stepRotors ⟨rom, config, inputs', responses'⟩).config := stepRotors_config_congr rfl rfl
    exact ⟨congrArg dataOfSymbol (substitute_congr (by simp) hstep x), hstep⟩
  | _ => exact ⟨rfl, rfl⟩

/-- R88: the effect of a plugboard command on the plugboard, and its response, read the plugboard alone. -/
theorem Effect.plugboard_congr (h : Effect i status data edit) (hi : isPlugboardCommand i = true)
    (hp : s.config.plug = s'.config.plug) :
    data s = data s' ∧ (edit s).config.plug = (edit s').config.plug := by
  cases h with
  | rejected => exact ⟨rfl, hp⟩
  | setPlugSame a => exact ⟨rfl, breakPair_configPlug_congr hp a⟩
  | setPlugPair => exact ⟨rfl, joinPair_configPlug_congr hp _ _⟩
  | getPlug a => exact ⟨congrArg dataOfSymbol (plug_congr hp a), hp⟩
  | clearPlugboard => exact ⟨rfl, rfl⟩
  | disconnect a => exact ⟨rfl, breakPair_configPlug_congr hp a⟩
  | isConnected a => exact ⟨by simp only [plug_congr hp], hp⟩
  | _ => cases hi

/-- R88: the effect of a rotor command on the offsets, and its response, read the offsets alone. -/
theorem Effect.rotor_congr (h : Effect i status data edit) (hi : isRotorCommand i = true)
    (ho : ∀ k, s.off k = s'.off k) :
    data s = data s' ∧ ∀ k, (edit s).off k = (edit s').off k := by
  cases h with
  | rejected => exact ⟨rfl, ho⟩
  | configureMachine => exact ⟨rfl, fun k => by cases k <;> rfl⟩
  | getRotorPos k => exact ⟨congrArg dataOfSymbol (ho k), ho⟩
  | setRotor k o => exact ⟨rfl, setOff_off_congr ho k o⟩
  | _ => cases hi
end

/-- Two states with the same ROM and configuration take a command alike. -/
theorem exec_congr (i : Instr) {s s' : State} (hr : s.rom = s'.rom) (hc : s.config = s'.config) :
    ∃ c r, exec i s = .next (s.after c r) ∧ exec i s' = .next (s'.after c r) := by
  obtain ⟨status, data, edit, h, he⟩ := exec_eq_after i
  obtain ⟨hdata, hedit⟩ := h.congr hr hc
  exact ⟨_, _, he s, by rw [he, hdata, hedit]⟩

end Sys2Proof.Machine

/-! PROOFS. What a step does with each kind of input, and one transaction as a step. -/

namespace Sys2Proof.Machine

/-- The laws R41 to R44 contain what the check of R48 looks at. -/
theorem Lawful.wf {W : Wiring} (h : Lawful W) : W.wf = true :=
  (wiringWf_iff W).mpr ⟨h.inverse_forward, h.forward_inverse, h.reflector_involutive, h.reflector_no_fixed_point⟩

theorem performWord_of_decode {w : Word} {i : Instr} (h : decode w = .command i) (s : State) :
    performWord w s = exec i s := by
  simp only [performWord, h]

theorem performWord_of_illegal {w : Word} {reason : IllegalReason} (h : decode w = .illegal reason) (s : State) :
    performWord w s = .next (s.after s.config (responseWord .illegalCommand 0#5)) := by
  simp only [performWord, h]
  exact raise_eq _ _

section
variable {s : State} (hw : s.rom.wf = true)
include hw

theorem step_idle (hi : s.inputs = []) : step s = .next s := by
  simp only [step_eq_takeInput hw, takeInput, hi]

theorem step_command {w : Word} {rest : List HostInput} (hi : s.inputs = .command w :: rest) :
    step s = performWord w { s with inputs := rest } := by
  simp only [step_eq_takeInput hw, takeInput, hi]

theorem step_reset {rest : List HostInput} (hi : s.inputs = .reset :: rest) :
    step s = .next ({ s with inputs := rest } : State).takeReset := by
  simp only [step_eq_takeInput hw, takeInput, hi]
end

/-- Two states with the same ROM and configuration perform a word alike. -/
theorem performWord_congr (w : Word) {s s' : State} (hr : s.rom = s'.rom) (hc : s.config = s'.config) :
    ∃ c r, performWord w s = .next (s.after c r) ∧ performWord w s' = .next (s'.after c r) := by
  cases hd : decode w with
  | command i => simpa only [performWord_of_decode hd] using exec_congr i hr hc
  | illegal _ => exact ⟨_, _, performWord_of_illegal hd s, hc ▸ performWord_of_illegal hd s'⟩

/-- A transaction is a step, whatever is presented after it and was answered before it. -/
theorem transact_eq_step {W : Wiring} (hW : W.wf = true) (c : Configuration) (w : Word) :
    ∃ c' r, transact W c w = some (c', r) ∧ ∀ rest earlier,
      step ⟨W, c, .command w :: rest, earlier⟩ = .next ⟨W, c', rest, earlier ++ [r]⟩ := by
  obtain ⟨c', r, h⟩ := performWord_next w ⟨W, c, [], []⟩
  have hstep : ∀ rest earlier,
      step ⟨W, c, .command w :: rest, earlier⟩ = .next ⟨W, c', rest, earlier ++ [r]⟩ := by
    intro rest earlier
    obtain ⟨d, q, h1, h2⟩ := performWord_congr w (s := ⟨W, c, [], []⟩) (s' := ⟨W, c, rest, earlier⟩) rfl rfl
    obtain ⟨rfl, rfl⟩ := after_inj _ (Host.Outcome.next.inj (h1.symm.trans h))
    exact (step_command (s := ⟨W, c, .command w :: rest, earlier⟩) hW rfl).trans h2
  refine ⟨c', r, ?_, hstep⟩
  have ht : stepMachine ⟨W, c, [.command w], []⟩ = .next ⟨W, c', [], [r]⟩ := hstep [] []
  simp [transact, ht, nextState?]

end Sys2Proof.Machine

/-! PROOFS. The invariants of R26: what keeps I-PLUG-INV. -/

namespace Sys2Proof.Machine

/-- I-MODEL and I-OFF hold by type (log entry 7). -/
theorem rotor_legal (r : Rotor) : r.Legal := by
  obtain ⟨m, o⟩ := r
  exact ⟨by cases m <;> rfl, decide_eq_true (Nat.le_of_lt_succ o.isLt)⟩

theorem configurationInv_iff (c : Configuration) : c.Inv ↔ PlugInvolutive c.plug :=
  ⟨fun h => h.plug_involutive, fun h => ⟨fun _ => rotor_legal _, h⟩⟩

theorem plugInvolutive_iff (s : State) : PlugInvolutive s.config.plug ↔ ∀ x, s.plug (s.plug x) = x := Iff.rfl

theorem plugInvolutive_identity : PlugInvolutive Table.identity := fun x => by simp

/-- Breaking a pair keeps I-PLUG-INV: `a` and its partner map to themselves, and no other symbol maps to one of them. -/
theorem breakPair_plugInvolutive {s : State} (h : PlugInvolutive s.config.plug) (a : Symbol) :
    PlugInvolutive (breakPair a s).config.plug := by
  rw [plugInvolutive_iff] at h ⊢
  intro x
  by_cases hx : x = a ∨ x = s.plug a
  · simp [breakPair_plug, hx]
  · have hsx : ¬ (s.plug x = a ∨ s.plug x = s.plug a) := by
      rintro (e | e)
      · exact hx (.inr (by rw [← e, h]))
      · exact hx (.inl (by rw [← h x, e, h]))
    simp [breakPair_plug, hx, hsx, h]

/-- Joining two symbols keeps I-PLUG-INV: they map to each other, their old partners to themselves, and no other symbol
maps to one of the four. -/
theorem joinPair_plugInvolutive {s : State} (h : PlugInvolutive s.config.plug) {a b : Symbol} (hab : a ≠ b) :
    PlugInvolutive (joinPair a b s).config.plug := by
  rw [plugInvolutive_iff] at h ⊢
  intro x
  by_cases hxa : x = a
  · simp [joinPair_plug hab, hxa, hab.symm]
  by_cases hxb : x = b
  · simp [joinPair_plug hab, hxb, hab.symm]
  by_cases hx : x = s.plug a ∨ x = s.plug b
  · simp [joinPair_plug hab, hxa, hxb, hx]
  · have hsa : s.plug x ≠ a := fun e => hx (.inl (by rw [← e, h]))
    have hsb : s.plug x ≠ b := fun e => hx (.inr (by rw [← e, h]))
    have hsx : ¬ (s.plug x = s.plug a ∨ s.plug x = s.plug b) := by
      rintro (e | e)
      · exact hxa (by rw [← h x, e, h])
      · exact hxb (by rw [← h x, e, h])
    simp [joinPair_plug hab, hxa, hxb, hx, hsa, hsb, hsx, h]

/-- Every effect keeps I-PLUG-INV. -/
theorem Effect.edit_plugInvolutive {i : Instr} {status : Status} {data : State → BitVec 5} {edit : State → State}
    (h : Effect i status data edit) {s : State} (hs : PlugInvolutive s.config.plug) :
    PlugInvolutive (edit s).config.plug := by
  cases h with
  | setPlugSame a => exact breakPair_plugInvolutive hs a
  | setPlugPair hab => exact joinPair_plugInvolutive hs hab
  | clearPlugboard => exact plugInvolutive_identity
  | disconnect a => exact breakPair_plugInvolutive hs a
  | encryptOneChar => rwa [stepRotors_configPlug]
  | setRotor k => exact (withRotor_plug _ k _).symm ▸ hs
  | _ => exact hs

theorem exec_keeps_configInv {i : Instr} {s t : State} (hs : s.config.Inv) (h : exec i s = .next t) :
    t.config.Inv := by
  obtain ⟨status, data, edit, hi, he⟩ := exec_eq_after i
  rw [he] at h
  cases h
  exact (configurationInv_iff _).mpr (hi.edit_plugInvolutive hs.plug_involutive)

theorem performWord_keeps_configInv {w : Word} {s t : State} (hs : s.config.Inv) (h : performWord w s = .next t) :
    t.config.Inv := by
  cases hd : decode w with
  | command i => exact exec_keeps_configInv hs (performWord_of_decode hd s ▸ h)
  | illegal _ =>
    rw [performWord_of_illegal hd] at h
    cases h
    exact hs

theorem configurationReset_inv : Configuration.reset.Inv :=
  (configurationInv_iff _).mpr plugInvolutive_identity

end Sys2Proof.Machine

/-! PROOFS. I-PLUG-PAIRS of R26: the plugged symbols are the support of an involutive permutation. -/

namespace Sys2Proof.Machine

/-- An involutive table as a permutation of the symbols. -/
def plugPerm {t : Table} (h : PlugInvolutive t) : Equiv.Perm Symbol := Function.Involutive.toPerm (Table.lookup t) h

theorem plugPerm_apply {t : Table} (h : PlugInvolutive t) (x : Symbol) : plugPerm h x = Table.lookup t x := rfl

theorem plugPerm_sq {t : Table} (h : PlugInvolutive t) : plugPerm h ^ 2 = 1 := by
  ext x
  simp [pow_two, plugPerm_apply, h x]

theorem mem_pluggedSymbols {t : Table} {x : Symbol} : x ∈ pluggedSymbols t ↔ Table.lookup t x ≠ x := by
  simp [pluggedSymbols, mem_allSymbols]

theorem allSymbols_nodup : allSymbols.Nodup := by decide

theorem pluggedSymbols_nodup (t : Table) : (pluggedSymbols t).Nodup := allSymbols_nodup.filter _

theorem pluggedSymbols_length_le (t : Table) : (pluggedSymbols t).length ≤ 26 :=
  List.length_filter_le _ allSymbols

/-- The plugged symbols are the support of the plugboard's permutation. -/
theorem pluggedSymbols_toFinset {t : Table} (h : PlugInvolutive t) :
    (pluggedSymbols t).toFinset = (plugPerm h).support := by
  ext x
  rw [List.mem_toFinset, mem_pluggedSymbols, Equiv.Perm.mem_support, plugPerm_apply]

theorem two_dvd_pluggedSymbols_length {t : Table} (h : PlugInvolutive t) : 2 ∣ (pluggedSymbols t).length := by
  rw [← List.toFinset_card_of_nodup (pluggedSymbols_nodup t), pluggedSymbols_toFinset h]
  exact Equiv.Perm.two_dvd_card_support (plugPerm_sq h)

end Sys2Proof.Machine

/-! PROOFS. The statements of spec/10_state.md. -/

namespace Sys2Proof.Machine

/-- Settles O14: the ROM is never written, and each way a step can end keeps I-PLUG-INV. -/
theorem stepKeepsInv : Obligations.StepKeepsInv := by
  unfold Obligations.StepKeepsInv
  intro s t hs h
  refine ⟨(step_rom h).symm ▸ hs.rom_wf, ?_⟩
  obtain ⟨-, ⟨-, rfl⟩ | ⟨w, rest, -, hw⟩ | ⟨rest, -, rfl⟩⟩ := step_next_cases h
  · exact hs.config_inv
  · exact performWord_keeps_configInv (s := { s with inputs := rest }) hs.config_inv hw
  · exact configurationReset_inv

/-- Settles O11: by the three cases of the next input. -/
theorem everyStepCompletes : Obligations.EveryStepCompletes := by
  unfold Obligations.EveryStepCompletes
  intro s hs
  match hi : s.inputs with
  | [] => exact ⟨s, step_idle hs.wf hi, rfl, hi, nofun, fun _ => rfl⟩
  | .command w :: rest =>
    obtain ⟨c, r, h⟩ := performWord_next w { s with inputs := rest }
    exact ⟨_, (step_command hs.wf hi).trans h, rfl, rfl, fun _ _ _ => ⟨r, rfl⟩, fun hne => absurd rfl (hne w rest)⟩
  | .reset :: rest => exact ⟨_, step_reset hs.wf hi, rfl, rfl, nofun, fun _ => rfl⟩

/-- Settles O12, by induction on the words: each step of the run is the transaction of the fold. -/
theorem runIsFoldOfTransactions : Obligations.RunIsFoldOfTransactions := by
  unfold Obligations.RunIsFoldOfTransactions
  intro W c ws hW
  induction ws generalizing c with
  | nil => exact ⟨c, [], rfl, rfl, fun later earlier => by simp [Host.Core.run]⟩
  | cons w ws ih =>
    obtain ⟨c₁, r, ht, hstep⟩ := transact_eq_step hW c w
    obtain ⟨c', rs, hfold, hlen, hrun⟩ := ih c₁
    refine ⟨c', r :: rs, by simp [runStream, ht, hfold], by simp [hlen], fun later earlier => ?_⟩
    have hcore : core.step ⟨W, c, .command w :: (ws.map .command ++ later), earlier⟩ =
        .next ⟨W, c₁, ws.map .command ++ later, earlier ++ [r]⟩ := hstep _ _
    simp only [List.length_cons, List.map_cons, List.cons_append, Host.Core.run, hcore, hrun, List.append_assoc,
      List.nil_append]

/-- Settles O15: the plugged symbols are the support of an involution, an even number of the 26 symbols. -/
theorem involutivePlugboardIsWholePairs : Obligations.InvolutivePlugboardIsWholePairs := by
  unfold Obligations.InvolutivePlugboardIsWholePairs
  intro t h
  have heven := two_dvd_pluggedSymbols_length h
  have hle := pluggedSymbols_length_le t
  refine ⟨fun x hx => ?_, ?_, ?_⟩
  · rw [mem_pluggedSymbols] at hx ⊢
    rw [h x]
    exact hx.symm
  · unfold pairCount
    omega
  · unfold pairCount maxPairs
    omega

/-- Settles O18: each field's frame is that of the command's effect. -/
theorem accessMatrixWrites : Obligations.AccessMatrixWrites := by
  unfold Obligations.AccessMatrixWrites
  intro i s
  obtain ⟨status, data, edit, h, he⟩ := exec_eq_after i
  exact ⟨_, _, he s, fun hc => h.edit_model hc s,
    fun hc he hr => h.edit_off hc he hr s, fun hs hc hd => h.edit_plug hs hc hd s⟩

/-- Settles O19: the effect of a plugboard command reads the plugboard, and that of a rotor command the offsets. -/
theorem accessMatrixReads : Obligations.AccessMatrixReads := by
  unfold Obligations.AccessMatrixReads
  constructor
  · intro i hi s s' hp
    obtain ⟨status, data, edit, h, he⟩ := exec_eq_after i
    obtain ⟨hdata, hedit⟩ := h.plugboard_congr hi hp
    exact ⟨_, _, _, he s, by rw [he, hdata], hedit⟩
  · intro i hi s s' ho
    obtain ⟨status, data, edit, h, he⟩ := exec_eq_after i
    obtain ⟨hdata, hedit⟩ := h.rotor_congr hi ho
    exact ⟨_, _, _, he s, by rw [he, hdata], hedit⟩

/-- Settles O6: a step takes the word, and performing the word is `exec` of what it decodes to. -/
theorem stepRunsDecodedCommand : Obligations.StepRunsDecodedCommand := by
  unfold Obligations.StepRunsDecodedCommand
  intro s w rest i hw hi hd
  rw [step_command hw hi, performWord_of_decode hd]

/-- Settles O13: the default WIRING passes the check of R41 to R44, and the empty plugboard is an involution. -/
theorem resetSatisfiesInv : Obligations.ResetSatisfiesInv := by
  unfold Obligations.ResetSatisfiesInv
  exact ⟨wiringHist_wf, configurationReset_inv⟩

end Sys2Proof.Machine

/-! PROOFS. Two issues of one command (R52): every effect but that of ENCRYPT_ONE_CHAR is idempotent. -/

namespace Sys2Proof.Machine

/-- A second write of an offset overwrites the first. -/
theorem setOff_setOff_same (s : State) (k : Slot) (o o' : Symbol) : (s.setOff k o).setOff k o' = s.setOff k o' := by
  cases k <;> rfl

/-- Breaking a pair that has been broken changes nothing: `a` is its own partner by then. -/
theorem breakPair_breakPair_config (a : Symbol) (s : State) :
    (breakPair a (breakPair a s)).config = (breakPair a s).config := by
  refine configuration_ext (fun k => by simp [breakPair]) fun x => ?_
  show (breakPair a (breakPair a s)).plug x = (breakPair a s).plug x
  have ha : (breakPair a s).plug a = a := by simp [breakPair_plug]
  by_cases hx : x = a
  · simp [hx, breakPair_plug]
  · simp [breakPair_plug a x (breakPair a s), ha, hx]

/-- Joining a pair that has been joined changes nothing: the old partners are `b` and `a` themselves by then. -/
theorem joinPair_joinPair_config {a b : Symbol} (hab : a ≠ b) (s : State) :
    (joinPair a b (joinPair a b s)).config = (joinPair a b s).config := by
  refine configuration_ext (fun k => by simp [joinPair]) fun x => ?_
  show (joinPair a b (joinPair a b s)).plug x = (joinPair a b s).plug x
  have ha : (joinPair a b s).plug a = b := by simp [joinPair_plug hab]
  have hb : (joinPair a b s).plug b = a := by simp [joinPair_plug hab, hab.symm]
  rw [joinPair_plug hab x (joinPair a b s), ha, hb]
  by_cases hxa : x = a
  · simp [hxa, ha]
  by_cases hxb : x = b
  · simp [hxb, hb, hab.symm]
  · simp [hxa, hxb]

/-- ENCRYPT_ONE_CHAR always moves the rotor in slot 1 (R101). -/
theorem stepRotors_config_ne (s : State) : (stepRotors s).config ≠ s.config := by
  intro h
  have hoff : s.off .one + 1 = s.off .one := by
    rw [← stepRotors_off_one]
    simp only [State.off, h]
  exact absurd (add_eq_left.mp hoff) (by decide)

section
variable {i : Instr} {status : Status} {data : State → BitVec 5} {edit : State → State}

/-- A second issue in the state the first one leaves answers the same DATA and leaves the same configuration. -/
theorem Effect.idempotent (h : Effect i status data edit) (hi : i.opcode ≠ .encryptOneChar) (s : State) :
    data (edit s) = data s ∧ (edit (edit s)).config = (edit s).config := by
  cases h with
  | encryptOneChar => exact absurd rfl hi
  | setRotor k o => exact ⟨rfl, congrArg State.config (setOff_setOff_same s k o o)⟩
  | setPlugSame a => exact ⟨rfl, breakPair_breakPair_config a s⟩
  | setPlugPair hab => exact ⟨rfl, joinPair_joinPair_config hab s⟩
  | disconnect a => exact ⟨rfl, breakPair_breakPair_config a s⟩
  | _ => exact ⟨rfl, rfl⟩

/-- The queries have no side effect (R52). -/
theorem Effect.query_config (h : Effect i status data edit)
    (hi : i.opcode = .getPlug ∨ i.opcode = .getRotorPos ∨ i.opcode = .isConnected) (s : State) :
    (edit s).config = s.config := by
  cases h with
  | rejected | getPlug | getRotorPos | isConnected => rfl
  | _ => simp [Instr.opcode] at hi
end

end Sys2Proof.Machine

/-! PROOFS. The laws of WIRING (R41 to R44) and what follows from them. -/

namespace Sys2Proof.Machine

/-- The check of R48 asks for the laws R41 to R44, and for no more. -/
theorem wiringWf_iff_lawful (W : Wiring) : W.wf = true ↔ Lawful W := by
  refine ⟨fun h => ?_, Lawful.wf⟩
  obtain ⟨hinv, hfwd, hrefl, hfix⟩ := (wiringWf_iff W).mp h
  exact ⟨fun m => ⟨Function.LeftInverse.injective (hinv m), Function.RightInverse.surjective (hfwd m)⟩,
    hinv, hfwd, hrefl, hfix⟩

theorem step_refused_of_not_wf {s : State} (h : ¬ s.rom.wf = true) : step s = .refused .illFormedWiring := by
  simp [step, stepMachine, h]

/-- A fixed-point-free involution maps the symbols below their image one to one onto those above it. -/
theorem card_lt_eq_card_gt {f : Symbol → Symbol} (hf : Function.Involutive f) :
    (Finset.univ.filter fun i => i < f i).card = (Finset.univ.filter fun i => f i < i).card := by
  refine Finset.card_bij' (fun i _ => f i) (fun i _ => f i) ?_ ?_ ?_ ?_ <;> simp [hf _]

/-- The two halves make up the 26 symbols, so each has 13. -/
theorem card_lt_of_involutive {f : Symbol → Symbol} (hf : Function.Involutive f) (hne : ∀ i, f i ≠ i) :
    (Finset.univ.filter fun i => i < f i).card = 13 := by
  have hsum := Finset.card_filter_add_card_filter_not (s := (Finset.univ : Finset Symbol)) fun i => i < f i
  have hgt : (Finset.univ.filter fun i => ¬ i < f i) = Finset.univ.filter fun i => f i < i :=
    Finset.filter_congr fun i _ => not_lt.trans (hne i).le_iff_lt
  rw [hgt, ← card_lt_eq_card_gt hf, Finset.card_univ, Fintype.card_fin] at hsum
  omega

/-- Filtering the list of all symbols counts the symbols with the property. -/
theorem length_filter_allSymbols (p : Symbol → Prop) [DecidablePred p] :
    (allSymbols.filter fun i => decide (p i)).length = (Finset.univ.filter p).card := by
  rw [← List.toFinset_card_of_nodup (allSymbols_nodup.filter _)]
  congr 1
  ext x
  simp [mem_allSymbols]

end Sys2Proof.Machine

/-! PROOFS. The bytes of a word (R49). -/

namespace Sys2Proof

/-- A byte-wide field is the eight bits from its low end. -/
theorem ofNat_field_eq_extractLsb' (w : Word) (lo : Nat) :
    BitVec.ofNat 8 (field w (lo + 7) lo) = w.extractLsb' lo 8 := by
  apply BitVec.eq_of_toNat_eq
  have hwidth : lo + 7 + 1 - lo = 8 := by omega
  simp [field, hwidth, BitVec.extractLsb'_toNat, Nat.shiftRight_eq_div_pow]

theorem bytesOfWord_eq (w : Word) :
    bytesOfWord w = [w.extractLsb' 0 8, w.extractLsb' 8 8, w.extractLsb' 16 8, w.extractLsb' 24 8] := by
  simp only [← ofNat_field_eq_extractLsb', bytesOfWord]

/-- The four bytes put together from the most significant down are the word. -/
theorem append_bytes_eq (w : Word) :
    w.extractLsb' 24 8 ++ w.extractLsb' 16 8 ++ w.extractLsb' 8 8 ++ w.extractLsb' 0 8 = w := by
  apply BitVec.eq_of_toNat_eq
  simp only [toNat_append_eq, BitVec.extractLsb'_toNat, Nat.shiftRight_eq_div_pow]
  omega

end Sys2Proof

/-! PROOFS. The statements of spec/20_memory.md. -/

namespace Sys2Proof.Machine

/-- Settles O10: a WIRING that fails the check is refused, and with a lawful one every step completes. -/
theorem stepRefusesExactlyUnlawfulWiring : Obligations.StepRefusesExactlyUnlawfulWiring := by
  unfold Obligations.StepRefusesExactlyUnlawfulWiring
  intro s
  constructor
  · intro hrefused hlawful
    obtain ⟨t, hnext, -⟩ := everyStepCompletes s hlawful
    rw [hrefused] at hnext
    cases hnext
  · exact fun h => step_refused_of_not_wf fun hwf => h ((wiringWf_iff_lawful _).mp hwf)

/-- Settles O21: each effect but that of ENCRYPT_ONE_CHAR is idempotent, and a step of the rotors moves slot 1. -/
theorem onlyEncryptIsNotIdempotent : Obligations.OnlyEncryptIsNotIdempotent := by
  unfold Obligations.OnlyEncryptIsNotIdempotent
  constructor
  · intro i s hi
    obtain ⟨status, data, edit, h, he⟩ := exec_eq_after i
    refine ⟨_, _, he s, ?_, fun hq => h.query_config hq s⟩
    obtain ⟨hdata, hconfig⟩ := h.idempotent hi s
    obtain ⟨hdata', hconfig'⟩ :=
      h.congr (s := s.after (edit s).config (responseWord status (data s))) (s' := edit s) (h.edit_rom s).symm rfl
    rw [he, hdata', hconfig', hdata, hconfig]
  · intro x s
    have hexec := (execEncryptOneChar_legal x s).trans ((Effect.encryptOneChar x).respond_eq_after s)
    exact ⟨_, _, hexec, stepRotors_config_ne s⟩

/-- Settles O43: the reflector is an involution with no fixed point, which halves the 26 symbols. -/
theorem reflectorIsThirteenPairs : Obligations.ReflectorIsThirteenPairs := by
  unfold Obligations.ReflectorIsThirteenPairs
  intro W hW
  rw [length_filter_allSymbols]
  exact card_lt_of_involutive hW.reflector_involutive hW.reflector_no_fixed_point

/-- Settles O44: each inverse table undoes the one forward table in both directions. -/
theorem inverseTableIsDetermined : Obligations.InverseTableIsDetermined := by
  unfold Obligations.InverseTableIsDetermined
  intro W W' m hW hW' hP j
  calc W.romPinv m j
    _ = W.romPinv m (W'.romP m (W'.romPinv m j)) := by rw [hW'.forward_inverse]
    _ = W.romPinv m (W.romP m (W'.romPinv m j)) := by rw [hP]
    _ = W'.romPinv m j := hW.inverse_forward m _

/-- Settles O42: the default WIRING passes the check, which asks for the laws; its notches are read off. -/
theorem defaultWiringIsLawful : Obligations.DefaultWiringIsLawful := by
  unfold Obligations.DefaultWiringIsLawful
  exact ⟨(wiringWf_iff_lawful _).mp wiringHist_wf, rfl, rfl, rfl, rfl, rfl⟩

/-- Settles O46: the bytes are the word's four bit groups, and appending them gives the word back. -/
theorem wordsTravelLittleEndian : Obligations.WordsTravelLittleEndian := by
  unfold Obligations.WordsTravelLittleEndian
  intro w rest
  refine ⟨bytesOfWord_eq w, ?_⟩
  rw [bytesOfWord_eq]
  simp only [List.cons_append, List.nil_append, wordOfBytes, append_bytes_eq]

end Sys2Proof.Machine

/-! PROOFS. The decoder and the encoder undo each other: a word is one of an opcode's format, or it is illegal. -/

namespace Sys2Proof

/-! ### Operands that fit their fields -/

@[simp] theorem fitsSymbolField_iff {v : Nat} : fitsSymbolField v = true ↔ v < 32 := decide_eq_true_iff
@[simp] theorem fitsModelField_iff {v : Nat} : fitsModelField v = true ↔ v < 8 := decide_eq_true_iff
@[simp] theorem fitsSlotField_iff {v : Nat} : fitsSlotField v = true ↔ v < 4 := decide_eq_true_iff

/-! ### Which words decode to a command -/

/-- `w` has the opcode's `OP` and sets no bit that its format reserves (R61, R62, R64). -/
def Opcode.HasWord (op : Opcode) (w : Word) : Prop := w.toNat % 16 = op.number ∧ w.toNat < 2 ^ op.usedBits

theorem opcodeNumber_injective : Function.Injective Opcode.number := by
  intro op op' h
  cases op <;> cases op' <;> simp [Opcode.number] at h ⊢

theorem exists_row (op : Opcode) : ∃ r ∈ opcodeTable, r.opcode = op := by cases op <;> decide

@[simp] theorem cutFields_opcode (op : Opcode) (w : Word) : (cutFields op w).opcode = op := by cases op <;> rfl

/-- A word of an opcode's format decodes to that opcode's command: no row of another opcode matches it. -/
theorem decode_of_hasWord {op : Opcode} {w : Word} (h : op.HasWord w) : decode w = .command (cutFields op w) := by
  obtain ⟨r, hr, rfl⟩ := exists_row op
  have hmatch := (matchesWord_iff hr w).mpr h
  unfold decode
  split
  next r' hfind =>
    have hmatch' := List.find?_some hfind
    have hnumber := ((matchesWord_iff (List.mem_of_find?_eq_some hfind) w).mp hmatch').1
    rw [opcodeNumber_injective (hnumber.symm.trans h.1)]
  next hfind => exact absurd hmatch (List.find?_eq_none.mp hfind r hr)

/-- A word that decodes to a command is of that command's format, and the command's operands are its fields. -/
theorem hasWord_of_decode {w : Word} {i : Instr} (h : decode w = .command i) :
    i.opcode.HasWord w ∧ cutFields i.opcode w = i := by
  unfold decode at h
  split at h
  next r hfind =>
    cases h
    rw [cutFields_opcode]
    have hmatch := List.find?_some hfind
    exact ⟨(matchesWord_iff (List.mem_of_find?_eq_some hfind) w).mp hmatch, rfl⟩
  next => cases h

/-- The illegal words are those of no opcode's format. -/
theorem decode_illegal_iff (w : Word) : (∃ reason, decode w = .illegal reason) ↔ ∀ op : Opcode, ¬ op.HasWord w := by
  constructor
  · rintro ⟨reason, hillegal⟩ op hop
    rw [decode_of_hasWord hop] at hillegal
    cases hillegal
  · intro hno
    cases hd : decode w with
    | command i => exact absurd (hasWord_of_decode hd).1 (hno _)
    | illegal reason => exact ⟨reason, rfl⟩

/-! ### Cutting fields and putting them together -/

/-- The word of a well-formed command is of its format. -/
theorem encode_hasWord {i : Instr} (h : i.wellFormed = true) : i.opcode.HasWord (encode i) := by
  cases i with
  | configureMachine => exact Laws.FormatFit.configureMachine _ _ _ _ _ _ h
  | encryptOneChar => exact Laws.FormatFit.encryptOneChar _ h
  | getRotorPos => exact Laws.FormatFit.getRotorPos _ h
  | setRotor => exact Laws.FormatFit.setRotor _ _ h
  | setPlug => exact Laws.FormatFit.setPlug _ _ h
  | getPlug => exact Laws.FormatFit.getPlug _ h
  | clearPlugboard => exact Laws.FormatFit.clearPlugboard h
  | disconnect => exact Laws.FormatFit.disconnect _ h
  | isConnected => exact Laws.FormatFit.isConnected _ h

/-- The 5-bit field above the opcode of a format `S` word is its operand. -/
theorem field_formatS {a : Nat} (ha : a < 32) (op : BitVec 4) : field (formatS a op) 8 4 = a := by
  simp only [field, formatS_toNat ha]
  omega

/-- The fields of the word of a well-formed command are its operands: the format keeps every bit of them. -/
theorem cutFields_encode {i : Instr} (h : i.wellFormed = true) : cutFields i.opcode (encode i) = i := by
  cases i <;> simp only [Instr.wellFormed, Bool.and_eq_true, fitsSymbolField_iff, fitsModelField_iff,
    fitsSlotField_iff] at h <;> simp only [Instr.opcode, cutFields, encode]
  case encryptOneChar | getPlug | disconnect | isConnected => rw [field_formatS h]
  case configureMachine =>
    obtain ⟨⟨⟨⟨⟨hm1, hp1⟩, hm2⟩, hp2⟩, hm3⟩, hp3⟩ := h
    simp only [field, formatC_toNat hm1 hp1 hm2 hp2 hm3 hp3, BitVec.toNat_ofNat, Instr.configureMachine.injEq]
    omega
  case getRotorPos =>
    simp only [field, formatL_toNat h, BitVec.toNat_ofNat, Instr.getRotorPos.injEq]
    omega
  case setRotor =>
    simp only [field, formatLP_toNat h.1 h.2, BitVec.toNat_ofNat, Instr.setRotor.injEq]
    omega
  case setPlug =>
    simp only [field, formatSS_toNat h.1 h.2, BitVec.toNat_ofNat, Instr.setPlug.injEq]
    omega

theorem field_lt (w : Word) (hi lo : Nat) : field w hi lo < 2 ^ (hi + 1 - lo) := Nat.mod_lt _ (by positivity)

/-- Operands cut from a word fit the fields they were cut from. -/
theorem cutFields_wellFormed (op : Opcode) (w : Word) : (cutFields op w).wellFormed = true := by
  cases op <;> simp [cutFields, Instr.wellFormed, field, Nat.mod_lt]

/-- A word of format `S` is its opcode and its operand put together. -/
theorem formatS_field {w : Word} {op : BitVec 4} (hop : w.toNat % 16 = op.toNat) (hw : w.toNat < 2 ^ 9) :
    formatS (field w 8 4) op = w := by
  apply BitVec.eq_of_toNat_eq
  rw [formatS_toNat (field_lt w 8 4), ← hop]
  simp only [field]
  omega

/-- The fields of a word of an opcode's format, put together again, are the word: the format reserves all other bits. -/
theorem encode_cutFields {op : Opcode} {w : Word} (h : op.HasWord w) : encode (cutFields op w) = w := by
  obtain ⟨hop, hw⟩ := h
  cases op <;> simp only [Opcode.number, Opcode.usedBits] at hop hw <;> simp only [cutFields, encode]
  case encryptOneChar | getPlug | disconnect | isConnected => exact formatS_field hop hw
  all_goals apply BitVec.eq_of_toNat_eq
  case configureMachine =>
    rw [formatC_toNat (field_lt w 6 4) (field_lt w 11 7) (field_lt w 14 12) (field_lt w 19 15) (field_lt w 22 20)
      (field_lt w 27 23)]
    simp only [field, BitVec.toNat_ofNat]
    omega
  case getRotorPos =>
    rw [formatL_toNat (field_lt w 5 4)]
    simp only [field, BitVec.toNat_ofNat]
    omega
  case setRotor =>
    rw [formatLP_toNat (field_lt w 5 4) (field_lt w 10 6)]
    simp only [field, BitVec.toNat_ofNat]
    omega
  case setPlug =>
    rw [formatSS_toNat (field_lt w 8 4) (field_lt w 13 9)]
    simp only [field, BitVec.toNat_ofNat]
    omega
  case clearPlugboard =>
    rw [formatN_toNat, BitVec.toNat_ofNat]
    omega

/-! ### The round trips -/

theorem decode_encode {i : Instr} (h : i.wellFormed = true) : decode (encode i) = .command i :=
  (decode_of_hasWord (encode_hasWord h)).trans (congrArg _ (cutFields_encode h))

theorem encode_of_decode {w : Word} {i : Instr} (h : decode w = .command i) : i.wellFormed = true ∧ encode i = w := by
  obtain ⟨hword, hcut⟩ := hasWord_of_decode h
  exact ⟨hcut ▸ cutFields_wellFormed _ w, (congrArg encode hcut).symm.trans (encode_cutFields hword)⟩

/-- A word given by its number decodes to the command whose word has that number. -/
theorem decode_ofNat {i : Instr} {n : Nat} (h : i.wellFormed = true) (hn : (encode i).toNat = n) :
    decode (BitVec.ofNat 32 n) = .command i := by
  rw [← hn, BitVec.ofNat_toNat, BitVec.setWidth_eq, decode_encode h]

end Sys2Proof

/-! PROOFS. The words that are illegal, bit by bit (R163). -/

namespace Sys2Proof.Machine

theorem exists_opcode_number {n : Nat} (h1 : 1 ≤ n) (h9 : n ≤ 9) : ∃ op : Opcode, n = op.number := by
  interval_cases n
  exacts [⟨.configureMachine, rfl⟩, ⟨.encryptOneChar, rfl⟩, ⟨.getRotorPos, rfl⟩, ⟨.setRotor, rfl⟩, ⟨.setPlug, rfl⟩,
    ⟨.getPlug, rfl⟩, ⟨.clearPlugboard, rfl⟩, ⟨.disconnect, rfl⟩, ⟨.isConnected, rfl⟩]

/-- R163: a word sets a reserved bit or has no opcode exactly when it is of no opcode's format. -/
theorem illegalBits_iff (w : Word) : IllegalBits w ↔ ∀ op : Opcode, ¬ op.HasWord w := by
  unfold IllegalBits
  constructor
  · intro h op ⟨hop, hused⟩
    cases op <;> simp only [Opcode.number, Opcode.usedBits] at hop hused <;> omega
  · intro h
    by_cases hassigned : 1 ≤ w.toNat % 16 ∧ w.toNat % 16 ≤ 9
    · obtain ⟨op, hop⟩ := exists_opcode_number hassigned.1 hassigned.2
      have hlarge : 2 ^ op.usedBits ≤ w.toNat := Nat.le_of_not_lt fun hlt => h op ⟨hop, hlt⟩
      have hreserved : w.toNat / 2 ^ op.usedBits ≠ 0 := (Nat.div_pos hlarge (by positivity)).ne'
      cases op <;> simp only [Opcode.number, Opcode.usedBits] at hop hreserved <;>
        simp only [hop, hreserved, ne_eq, not_false_eq_true, and_self, or_true, true_or]
    · exact (show _ ∨ _ by omega).imp_right .inl

end Sys2Proof.Machine

/-! PROOFS. What a response word can hold (R70, R72). -/

namespace Sys2Proof.Machine

theorem responseWord_lt (status : Status) (data : BitVec 5) : (responseWord status data).toNat < 2 ^ 7 := by
  rw [responseWord_toNat]
  have := data.isLt
  have := status.code.isLt
  omega

theorem dataOfSymbol_le (x : Symbol) : (dataOfSymbol x).toNat ≤ 25 := by revert x; decide

theorem dataOfBool_le (b : Bool) : (dataOfBool b).toNat ≤ 1 := by cases b <;> decide

section
variable {i : Instr} {status : Status} {data : State → BitVec 5} {edit : State → State}

theorem Effect.data_of_error (h : Effect i status data edit) (hstatus : status ≠ .ok) (s : State) : data s = 0#5 := by
  cases h with
  | rejected => rfl
  | _ => exact absurd rfl hstatus

/-- R72: the commands with no output answer DATA 0. -/
theorem Effect.data_of_noOutput (h : Effect i status data edit)
    (hi : i.opcode = .configureMachine ∨ i.opcode = .setRotor ∨ i.opcode = .setPlug ∨ i.opcode = .clearPlugboard ∨
      i.opcode = .disconnect) (s : State) : data s = 0#5 := by
  cases h with
  | encryptOneChar | getRotorPos | getPlug | isConnected => simp [Instr.opcode] at hi
  | _ => rfl

/-- R72: the DATA of a command that answers a symbol or an offset. -/
theorem Effect.data_of_symbolOutput (h : Effect i status data edit)
    (hi : i.opcode = .encryptOneChar ∨ i.opcode = .getRotorPos ∨ i.opcode = .getPlug) (s : State) :
    (data s).toNat ≤ 25 := by
  cases h with
  | rejected => exact Nat.zero_le _
  | encryptOneChar | getRotorPos | getPlug => exact dataOfSymbol_le _
  | _ => simp [Instr.opcode] at hi

theorem Effect.data_of_isConnected (h : Effect i status data edit) (hi : i.opcode = .isConnected) (s : State) :
    (data s).toNat ≤ 1 := by
  cases h with
  | rejected => exact Nat.zero_le _
  | isConnected => exact dataOfBool_le _
  | _ => cases hi
end

end Sys2Proof.Machine

/-! PROOFS. The host-side encoder (R68): which calls have a word, and what the others report. -/

namespace Sys2Proof.Machine

theorem except_bind_eq_ok {ε α β : Type} {x : Except ε α} {f : α → Except ε β} {b : β} :
    x >>= f = .ok b ↔ ∃ a, x = .ok a ∧ f a = .ok b := by
  cases x <;> simp [bind, Except.bind]

theorem except_bind_eq_error {ε α β : Type} {x : Except ε α} {f : α → Except ε β} {e : ε} :
    x >>= f = .error e ↔ x = .error e ∨ ∃ a, x = .ok a ∧ f a = .error e := by
  cases x <;> simp [bind, Except.bind]

/-! ### Arguments -/

theorem fieldArg_eq_ok {width n : Nat} {e : ErrorClass} {v : Int} :
    fieldArg width e v = .ok n ↔ (n : Int) = v ∧ n < 2 ^ width := by
  have hcast : n < 2 ^ width ↔ (n : Int) < 2 ^ width := by exact_mod_cast Iff.rfl
  simp only [fieldArg, fitsField, decide_eq_true_eq, hcast]
  split
  · simp only [Except.ok.injEq]; omega
  · simp only [reduceCtorEq, false_iff]; omega

theorem fieldArg_eq_error {width : Nat} {e e' : ErrorClass} {v : Int} (h : fieldArg width e v = .error e') :
    e = e' := by
  simp only [fieldArg] at h
  split at h <;> cases h
  rfl

/-! ### Calls -/

/-- The call of a well-formed command has that command. -/
theorem toInstr_callOf {i : Instr} (h : i.wellFormed = true) : (callOf i).toInstr = .ok i := by
  have hfit : ∀ {width n : Nat} {e : ErrorClass}, n < 2 ^ width → fieldArg width e n = .ok n :=
    fun hn => fieldArg_eq_ok.mpr ⟨rfl, hn⟩
  cases i <;> simp only [Instr.wellFormed, Bool.and_eq_true, fitsSymbolField_iff, fitsModelField_iff,
      fitsSlotField_iff] at h <;>
    simp [callOf, HostCall.toInstr, symbolArg, positionArg, modelArg, slotArg, hfit, h, pure, Except.pure, bind,
      Except.bind]

/-- A call with a command has the command's operands as its integers, and they fit their fields. -/
theorem wellFormed_of_toInstr {c : HostCall} {i : Instr} (h : c.toInstr = .ok i) :
    i.wellFormed = true ∧ callOf i = c := by
  cases c <;> simp only [HostCall.toInstr, except_bind_eq_ok, symbolArg, positionArg, modelArg, slotArg,
    fieldArg_eq_ok, pure, Except.pure, Except.ok.injEq] at h
  case configureMachine =>
    obtain ⟨_, ⟨rfl, hm1⟩, _, ⟨rfl, hp1⟩, _, ⟨rfl, hm2⟩, _, ⟨rfl, hp2⟩, _, ⟨rfl, hm3⟩, _, ⟨rfl, hp3⟩, rfl⟩ := h
    exact ⟨by simp_all [Instr.wellFormed], rfl⟩
  case setRotor | setPlug =>
    obtain ⟨_, ⟨rfl, ha⟩, _, ⟨rfl, hb⟩, rfl⟩ := h
    exact ⟨by simp_all [Instr.wellFormed], rfl⟩
  case clearPlugboard => exact ⟨h ▸ rfl, h ▸ rfl⟩
  all_goals
    obtain ⟨_, ⟨rfl, ha⟩, rfl⟩ := h
    exact ⟨by simp_all [Instr.wellFormed], rfl⟩

/-- What the encoder reports is the class of the call's operands, whichever of them does not fit. -/
theorem callErrorClass_of_toInstr {c : HostCall} {e : ErrorClass} (h : c.toInstr = .error e) :
    callErrorClass c = some e := by
  cases c <;>
    simp only [HostCall.toInstr, except_bind_eq_error, symbolArg, positionArg, modelArg, slotArg, pure, Except.pure,
      reduceCtorEq, and_false, exists_false, or_false] at h
  case configureMachine =>
    obtain h | ⟨_, _, h | ⟨_, _, h | ⟨_, _, h | ⟨_, _, h | ⟨_, _, h⟩⟩⟩⟩⟩ := h <;>
      exact congrArg some (fieldArg_eq_error h)
  case setRotor | setPlug =>
    obtain h | ⟨_, _, h⟩ := h <;> exact congrArg some (fieldArg_eq_error h)
  all_goals exact congrArg some (fieldArg_eq_error h)

/-- A word is sent for the calls of well-formed commands, and it is the command's word. -/
theorem hostEncode_eq_ok_iff {c : HostCall} {w : Word} :
    hostEncode c = .ok w ↔ ∃ i : Instr, i.wellFormed = true ∧ callOf i = c ∧ encode i = w := by
  constructor
  · intro h
    cases hc : c.toInstr with
    | ok i =>
      obtain ⟨hi, hcall⟩ := wellFormed_of_toInstr hc
      exact ⟨i, hi, hcall, by simpa [hostEncode, hc, Except.map] using h⟩
    | error e => simp [hostEncode, hc, Except.map] at h
  · rintro ⟨i, hi, rfl, rfl⟩
    simp [hostEncode, toInstr_callOf hi, Except.map]

theorem callErrorClass_of_hostEncode {c : HostCall} {e : ErrorClass} (h : hostEncode c = .error e) :
    callErrorClass c = some e := by
  cases hc : c.toInstr with
  | ok i => simp [hostEncode, hc, Except.map] at h
  | error e' =>
    obtain rfl : e' = e := by simpa [hostEncode, hc, Except.map] using h
    exact callErrorClass_of_toInstr hc

/-! ### Lists of calls -/

/-- The calls of well-formed commands are sent as the commands' words, in order. -/
theorem encodeCalls_map_callOf {is : List Instr} (h : ∀ i ∈ is, i.wellFormed = true) :
    encodeCalls (is.map callOf) = .ok (is.map encode) := by
  induction is with
  | nil => rfl
  | cons i is ih =>
    obtain ⟨hi, his⟩ := List.forall_mem_cons.mp h
    simp [encodeCalls, hostEncode_eq_ok_iff.mpr ⟨i, hi, rfl, rfl⟩, ih his, Except.map]

/-- One call without a command drops every word of the list, and the class reported is the one the calls share. -/
theorem encodeCalls_error {cs : List HostCall} {e : ErrorClass} (hclass : ∀ c ∈ cs, callErrorClass c = some e)
    (hbad : ∃ c ∈ cs, ∀ i : Instr, i.wellFormed = true → callOf i ≠ c) :
    encodeCalls cs = .error (.argument e) := by
  induction cs with
  | nil => simp at hbad
  | cons c cs ih =>
    obtain ⟨hc, hcs⟩ := List.forall_mem_cons.mp hclass
    simp only [encodeCalls]
    split
    next e' herror =>
      rw [callErrorClass_of_hostEncode herror] at hc
      cases hc
      rfl
    next w hword =>
      obtain ⟨i, hi, hcall, -⟩ := hostEncode_eq_ok_iff.mp hword
      obtain ⟨c', hmem, hno⟩ := hbad
      obtain rfl | hmem := List.mem_cons.mp hmem
      · exact absurd hcall (hno i hi)
      · rw [ih hcs ⟨c', hmem, hno⟩]
        rfl

/-- A SET_PLUG call with an argument outside 0..31 has no command. -/
theorem callOf_ne_setPlug {a b : Int} (h : a < 0 ∨ 31 < a ∨ b < 0 ∨ 31 < b) (i : Instr) (hi : i.wellFormed = true) :
    callOf i ≠ .setPlug a b := by
  intro hcall
  cases i <;> cases hcall
  simp only [Instr.wellFormed, Bool.and_eq_true, fitsSymbolField_iff] at hi
  omega

/-- A SET_ROTOR call with a position outside 0..31 has no command. -/
theorem callOf_ne_setRotor {slot pos : Int} (h : pos < 0 ∨ 31 < pos) (i : Instr) (hi : i.wellFormed = true) :
    callOf i ≠ .setRotor slot pos := by
  intro hcall
  cases i <;> cases hcall
  simp only [Instr.wellFormed, Bool.and_eq_true, fitsSymbolField_iff] at hi
  omega

end Sys2Proof.Machine

/-! PROOFS. The statements of spec/30_encoding.md. -/

namespace Sys2Proof.Machine

/-- Settles O1: the word of a well-formed command is of its format, and its fields are the operands. -/
theorem decodeEncodeRoundTrip : Obligations.DecodeEncodeRoundTrip := by
  unfold Obligations.DecodeEncodeRoundTrip
  exact fun _ => decode_encode

/-- Settles O2: a word of an opcode's format is its fields put together. -/
theorem encodeDecodeRoundTrip : Obligations.EncodeDecodeRoundTrip := by
  unfold Obligations.EncodeDecodeRoundTrip
  exact fun _ _ => encode_of_decode

/-- Settles O3: each number is that of the command's word. -/
theorem fieldPositionsOfEveryCommand : Obligations.FieldPositionsOfEveryCommand := by
  unfold Obligations.FieldPositionsOfEveryCommand
  refine ⟨?_, ?_, ?_, ?_, ?_, ?_⟩
  · intro m1 p1 m2 p2 m3 p3 hm1 hp1 hm2 hp2 hm3 hp3
    exact decode_ofNat (by simp [Instr.wellFormed, *]) (formatC_toNat hm1 hp1 hm2 hp2 hm3 hp3 _)
  · intro a ha
    have hfits := fitsSymbolField_iff.mpr ha
    exact ⟨decode_ofNat (i := .encryptOneChar a) hfits (formatS_toNat ha _),
      decode_ofNat (i := .getPlug a) hfits (formatS_toNat ha _),
      decode_ofNat (i := .disconnect a) hfits (formatS_toNat ha _),
      decode_ofNat (i := .isConnected a) hfits (formatS_toNat ha _)⟩
  · intro slot hslot
    exact decode_ofNat (by simp [Instr.wellFormed, *]) (formatL_toNat hslot _)
  · intro slot pos hslot hpos
    exact decode_ofNat (by simp [Instr.wellFormed, *]) (formatLP_toNat hslot hpos _)
  · intro a b ha hb
    exact decode_ofNat (by simp [Instr.wellFormed, *]) (formatSS_toNat ha hb _)
  · exact decode_ofNat rfl (formatN_toNat _)

/-- Settles O4: illegal words and words with illegal bits are both those of no opcode's format. -/
theorem illegalWordsAreExactlyThoseOfTheRules : Obligations.IllegalWordsAreExactlyThoseOfTheRules := by
  unfold Obligations.IllegalWordsAreExactlyThoseOfTheRules
  exact fun w => (decode_illegal_iff w).trans (illegalBits_iff w).symm

/-- Settles O17: STATUS and DATA of a response are those of the command's effect. -/
theorem responseWordShape : Obligations.ResponseWordShape := by
  unfold Obligations.ResponseWordShape
  intro i s
  obtain ⟨status, data, edit, h, he⟩ := exec_eq_after i
  refine ⟨_, _, he s, responseWord_lt _ _, ?_⟩
  simp only [statusOf_responseWord, dataOf_responseWord]
  exact ⟨fun hstatus => by rw [h.data_of_error hstatus]; rfl, fun hi => by rw [h.data_of_noOutput hi]; rfl,
    fun hi => h.data_of_symbolOutput hi s, fun hi => h.data_of_isConnected hi s⟩

/-- Settles O47: a word is sent exactly for the calls of well-formed commands, and only those have a word. -/
theorem hostEncoderNeverTruncates : Obligations.HostEncoderNeverTruncates := by
  unfold Obligations.HostEncoderNeverTruncates
  refine fun c => ⟨fun w h => ?_, fun e h => ⟨fun w i hd hcall => ?_, callErrorClass_of_hostEncode h⟩⟩
  · obtain ⟨i, hi, hcall, rfl⟩ := hostEncode_eq_ok_iff.mp h
    exact ⟨i, decode_encode hi, hcall⟩
  · obtain ⟨hi, hword⟩ := encode_of_decode hd
    rw [hostEncode_eq_ok_iff.mpr ⟨i, hi, hcall, hword⟩] at h
    cases h

/-- Settles O5: the decoder run on each word. -/
theorem encodingExamplesDecode : Obligations.EncodingExamplesDecode := by
  unfold Obligations.EncodingExamplesDecode
  decide

/-- Settles O9: a step with no input waits. -/
theorem idleStepChangesNothing : Obligations.IdleStepChangesNothing := by
  unfold Obligations.IdleStepChangesNothing
  exact fun _ => step_idle

/-- Settles O48: each expansion is a list of calls, of well-formed commands or of one error class. -/
theorem pseudoInstructionExpansions : Obligations.PseudoInstructionExpansions := by
  unfold Obligations.PseudoInstructionExpansions
  refine ⟨?connect, ?connectUnfit, ?connectSame, ?resetMachine, ?encryptText, ?setPositions, ?setPositionsUnfit⟩
  case connect =>
    intro a b ha hb hab
    have hne : (a : Int) ≠ b := Int.ofNat_inj.not.mpr hab
    simp only [AsmItem.expand, if_neg hne, Except.bind]
    exact encodeCalls_map_callOf (is := [.setPlug a b]) (by simp [Instr.wellFormed, ha, hb])
  case connectUnfit =>
    intro a b hab hunfit
    simp only [AsmItem.expand, if_neg hab, Except.bind]
    exact encodeCalls_error (by simp [callErrorClass]) ⟨_, List.mem_singleton_self _, callOf_ne_setPlug hunfit⟩
  case connectSame => exact fun a => if_pos rfl
  case resetMachine =>
    exact encodeCalls_map_callOf (is := [.configureMachine 1 0 2 0 3 0, .clearPlugboard]) (by decide)
  case encryptText =>
    intro text
    have hwf : ∀ i ∈ text.map fun x => Instr.encryptOneChar x.val, i.wellFormed = true :=
      List.forall_mem_map.mpr fun x _ => fitsSymbolField_iff.mpr (by omega)
    simpa [AsmItem.expand, Except.bind, callOf, encryptWords, Function.comp_def] using encodeCalls_map_callOf hwf
  case setPositions =>
    intro p1 p2 p3 h1 h2 h3
    exact encodeCalls_map_callOf (is := [.setRotor 1 p1, .setRotor 2 p2, .setRotor 3 p3])
      (by simp [Instr.wellFormed, h1, h2, h3])
  case setPositionsUnfit =>
    intro p1 p2 p3 hunfit
    refine encodeCalls_error (by simp [callErrorClass]) ?_
    obtain h1 | h2 | h3 : (p1 < 0 ∨ 31 < p1) ∨ (p2 < 0 ∨ 31 < p2) ∨ (p3 < 0 ∨ 31 < p3) := by omega
    · exact ⟨.setRotor 1 p1, by simp, callOf_ne_setRotor h1⟩
    · exact ⟨.setRotor 2 p2, by simp, callOf_ne_setRotor h2⟩
    · exact ⟨.setRotor 3 p3, by simp, callOf_ne_setRotor h3⟩

end Sys2Proof.Machine

/-! PROOFS. An effect determines what its command answers, and the response words of the plugboard commands. -/

namespace Sys2Proof.Machine

/-- The converse of `exec_effect`: a command with an effect answers as the effect says, on every state. -/
theorem Effect.exec_eq {i : Instr} {status : Status} {data : State → BitVec 5} {edit : State → State}
    (h : Effect i status data edit) (s : State) :
    exec i s = .next (s.after (edit s).config (responseWord status (data s))) := by
  rw [← h.respond_eq_after]
  cases h with
  | rejected illegal errorClass => exact exec_illegal illegal errorClass s
  | configureMachine => simp [exec, execConfigureMachine]
  | encryptOneChar x => exact execEncryptOneChar_legal x s
  | getRotorPos => simp [exec, execGetRotorPos]
  | setRotor => simp [exec, execSetRotor]
  | setPlugSame a => simp [exec, execSetPlug_legal]
  | setPlugPair distinct => simp [exec, execSetPlug_legal, distinct]
  | getPlug a => exact execGetPlug_legal a s
  | clearPlugboard => rfl
  | disconnect a => exact execDisconnect_legal a s
  | isConnected a => exact execIsConnected_legal a s

theorem isSym_eq_false_iff {v : Nat} : isSym v = false ↔ 25 < v := by simp [isSym]

/-- R160, R162: a command with an illegal symbol operand answers InvalidSymbolError and writes nothing. -/
theorem exec_invalidSymbol {i : Instr} (illegal : operandsLegal i = false)
    (errorClass : operandErrorClass i = some .invalidSymbolError) (s : State) :
    exec i s = .next (s.after s.config 0x00000002#32) :=
  (Effect.rejected illegal errorClass).exec_eq s

/-- A yes is DATA 1, a no is DATA 0 (R86). -/
theorem responseWord_ok_bool (b : Bool) :
    responseWord .ok (dataOfBool b) = if b then 0x00000004#32 else 0x00000000#32 := by
  cases b <;> rfl

end Sys2Proof.Machine

/-! PROOFS. The statements of spec/41_plugboard.md. -/

namespace Sys2Proof.Machine

/-- Settles O26: two symbols are joined, one symbol twice is unplugged, and an illegal operand is rejected. -/
theorem setPlugMeaning : Obligations.SetPlugMeaning := by
  unfold Obligations.SetPlugMeaning
  refine ⟨fun s a b hab => ?distinct, fun s a => ?same, fun s a b hillegal => ?illegal⟩
  case distinct => exact ⟨_, (Effect.setPlugPair hab).exec_eq s, fun x => joinPair_plug hab x s⟩
  case same => exact ⟨_, (Effect.setPlugSame a).exec_eq s, fun x => breakPair_plug a x s⟩
  case illegal =>
    refine exec_invalidSymbol ?_ rfl s
    simpa only [operandsLegal, Bool.and_eq_false_iff, isSym_eq_false_iff] using hillegal

/-- Settles O29: a symbol's pair is broken, and an illegal operand is rejected. -/
theorem disconnectMeaning : Obligations.DisconnectMeaning := by
  unfold Obligations.DisconnectMeaning
  exact ⟨fun s a => ⟨_, (Effect.disconnect a).exec_eq s, fun x => breakPair_plug a x s⟩,
    fun s a ha => exec_invalidSymbol (i := .disconnect a) (isSym_eq_false_iff.mpr ha) rfl s⟩

/-- Settles O27: the DATA of the effect is the partner, written as a response word. -/
theorem getPlugMeaning : Obligations.GetPlugMeaning := by
  unfold Obligations.GetPlugMeaning
  refine ⟨fun s a => ?legal, fun s a ha => exec_invalidSymbol (i := .getPlug a) (isSym_eq_false_iff.mpr ha) rfl s⟩
  case legal =>
    rw [← responseWord_ok_symbol]
    exact (Effect.getPlug a).exec_eq s

/-- Settles O28: the plugboard written is the identity table. -/
theorem clearPlugboardMeaning : Obligations.ClearPlugboardMeaning := by
  unfold Obligations.ClearPlugboardMeaning
  exact fun s => ⟨Table.identity, Effect.clearPlugboard.exec_eq s, lookup_identity⟩

/-- Settles O30: the DATA of the effect says whether the partner is another symbol. -/
theorem isConnectedMeaning : Obligations.IsConnectedMeaning := by
  unfold Obligations.IsConnectedMeaning
  refine ⟨fun s a => ?legal, fun s a ha => exec_invalidSymbol (i := .isConnected a) (isSym_eq_false_iff.mpr ha) rfl s⟩
  case legal =>
    rw [(Effect.isConnected a).exec_eq s, responseWord_ok_bool]
    simp only [decide_eq_true_eq, ne_eq, ite_not, id_eq]

end Sys2Proof.Machine

/-! PROOFS. What `STEP()` does to each offset by the notches (R100, R101), and what an encryption reads of the ROM
(R106). -/

namespace Sys2Proof.Machine

/-! ### The offsets after `STEP()` -/

theorem atNotch_iff {s : State} {k : Slot} : atNotch s k = true ↔ s.off k = s.rom.romN (s.model k) :=
  decide_eq_true_iff

section
variable {s : State}

theorem stepRotors_off_two_of_notch
    (h : s.off .one = s.rom.romN (s.model .one) ∨ s.off .two = s.rom.romN (s.model .two)) :
    (stepRotors s).off .two = s.off .two + 1 := by
  rw [stepRotors_off_two, if_pos (by simpa only [Bool.or_eq_true, atNotch_iff] using h)]

theorem stepRotors_off_two_of_no_notch (h1 : s.off .one ≠ s.rom.romN (s.model .one))
    (h2 : s.off .two ≠ s.rom.romN (s.model .two)) : (stepRotors s).off .two = s.off .two := by
  rw [stepRotors_off_two, if_neg (by simpa only [Bool.or_eq_true, atNotch_iff, not_or] using ⟨h1, h2⟩)]

theorem stepRotors_off_three_of_notch (h : s.off .two = s.rom.romN (s.model .two)) :
    (stepRotors s).off .three = s.off .three + 1 := by
  rw [stepRotors_off_three, if_pos (atNotch_iff.mpr h)]

theorem stepRotors_off_three_of_no_notch (h : s.off .two ≠ s.rom.romN (s.model .two)) :
    (stepRotors s).off .three = s.off .three := by
  rw [stepRotors_off_three, if_neg (atNotch_iff.not.mpr h)]
end

/-- A legal ENCRYPT_ONE_CHAR leaves the offsets of `STEP()` (R103), and the ROM and the models. -/
theorem exec_encryptOneChar_steps (x : Symbol) (s : State) :
    ∃ t, exec (.encryptOneChar x.val) s = .next t ∧ t.rom = s.rom ∧
      (∀ k, t.model k = s.model k) ∧ ∀ k, t.off k = (stepRotors s).off k :=
  ⟨_, (Effect.encryptOneChar x).exec_eq s, rfl, stepRotors_model s, fun _ => rfl⟩

/-! ### What an encryption reads of the ROM -/

section
variable {s s' : State} (hc : s.config = s'.config)
include hc

/-- Of the notches `STEP()` reads the flags of slots 1 and 2 only. -/
theorem stepRotors_config_congr_of_atNotch (h1 : atNotch s .one = atNotch s' .one)
    (h2 : atNotch s .two = atNotch s' .two) : (stepRotors s).config = (stepRotors s').config := by
  simp only [stepRotors, h1, h2]
  exact stepSlotIf_config_congr (stepSlotIf_config_congr (stepSlotIf_config_congr hc _ _) _ _) _ _

theorem atNotch_congr_of_romN {k : Slot} (hn : s.rom.romN (s.model k) = s'.rom.romN (s.model k)) :
    atNotch s k = atNotch s' k :=
  decide_eq_decide.mpr (by rw [hn]; simp only [State.off, State.model, hc])

theorem fwd_congr_of_romP (hP : ∀ m i, s.rom.romP m i = s'.rom.romP m i) (k : Slot) (x : Symbol) :
    fwd s k x = fwd s' k x := by
  simp only [fwd_eq, hP, State.off, State.model, hc]

theorem inv_congr_of_romPinv (hI : ∀ m i, s.rom.romPinv m i = s'.rom.romPinv m i) (k : Slot) (x : Symbol) :
    inv s k x = inv s' k x := by
  simp only [inv_eq, hI, State.off, State.model, hc]

/-- The nine substitutions read no notch. -/
theorem substitute_congr_of_tables (hP : ∀ m i, s.rom.romP m i = s'.rom.romP m i)
    (hI : ∀ m i, s.rom.romPinv m i = s'.rom.romPinv m i) (hR : ∀ i, s.rom.romRef i = s'.rom.romRef i)
    (x : Symbol) : substitute s x = substitute s' x := by
  simp only [substitute, cascadeFwd, cascadeInv, plug_congr (congrArg Configuration.plug hc),
    fwd_congr_of_romP hc hP, inv_congr_of_romPinv hc hI, hR]
end

end Sys2Proof.Machine

/-! PROOFS. The statements of spec/42_stepping.md. -/

namespace Sys2Proof.Machine

/-- Settles O34: each offset is that of `STEP()`, by the flags of the state before it. -/
theorem encryptStepsRotors : Obligations.EncryptStepsRotors := by
  unfold Obligations.EncryptStepsRotors
  intro s x r1AtNotch r2AtNotch
  obtain ⟨t, ht, -, -, hoff⟩ := exec_encryptOneChar_steps x s
  have hnext (o : Symbol) : (o + 1).val = (o.val + 1) % 26 := Fin.val_add o 1
  refine ⟨t, ht, ?_⟩
  simp only [hoff, ← hnext]
  exact ⟨congrArg Fin.val (stepRotors_off_one s),
    fun h => congrArg Fin.val (stepRotors_off_two_of_notch h), stepRotors_off_two_of_no_notch,
    fun h => congrArg Fin.val (stepRotors_off_three_of_notch h), stepRotors_off_three_of_no_notch⟩

/-- Settles O36: the first keystroke carries rotor 2 onto its notch, where the second one finds it. -/
theorem doubleStepOverTwoKeystrokes : Obligations.DoubleStepOverTwoKeystrokes := by
  unfold Obligations.DoubleStepOverTwoKeystrokes
  intro s x y h1 h2
  obtain ⟨t, ht, hrom, hmodel, hoff⟩ := exec_encryptOneChar_steps x s
  obtain ⟨u, hu, -, -, hoff'⟩ := exec_encryptOneChar_steps y t
  have hone : t.off .one = s.off .one + 1 := (hoff .one).trans (stepRotors_off_one s)
  have htwo : t.off .two = s.off .two + 1 := (hoff .two).trans (stepRotors_off_two_of_notch (.inl h1))
  have hthree : t.off .three = s.off .three := by
    have hbelow : s.off .two ≠ s.rom.romN (s.model .two) := by
      rw [← h2]
      exact (add_ne_left.mpr (by decide)).symm
    exact (hoff .three).trans (stepRotors_off_three_of_no_notch hbelow)
  have honNotch : t.off .two = t.rom.romN (t.model .two) := by rw [htwo, h2, hrom, hmodel]
  have htwice (o : Symbol) : o + 1 + 1 = o + 2 := add_assoc o 1 1
  refine ⟨t, u, ht, hu, hone, htwo, hthree, ?_, ?_, ?_⟩
  · rw [hoff' .one, stepRotors_off_one, hone, htwice]
  · rw [hoff' .two, stepRotors_off_two_of_notch (.inr honNotch), htwo, htwice]
  · rw [hoff' .three, stepRotors_off_three_of_notch honNotch, hthree]

/-- Settles O37: `STEP()` reads the notches of slots 1 and 2, and the substitutions read none. -/
theorem rotorThreeNotchNeverRead : Obligations.RotorThreeNotchNeverRead := by
  unfold Obligations.RotorThreeNotchNeverRead
  intro s s' a hc hP hI hR hn1 hn2
  cases legal : isSym a with
  | false =>
    refine ⟨_, _, exec_invalidSymbol (i := .encryptOneChar a) legal rfl s, ?_⟩
    rw [hc]
    exact exec_invalidSymbol (i := .encryptOneChar a) legal rfl s'
  | true =>
    obtain ⟨x, rfl⟩ := exists_symbol_of_isSym legal
    have hconfig : (stepRotors s).config = (stepRotors s').config :=
      stepRotors_config_congr_of_atNotch hc (atNotch_congr_of_romN hc hn1) (atNotch_congr_of_romN hc hn2)
    have hresult : substitute (stepRotors s) x = substitute (stepRotors s') x := by
      refine substitute_congr_of_tables hconfig ?_ ?_ ?_ x <;> simpa only [stepRotors_rom]
    refine ⟨_, _, (Effect.encryptOneChar x).exec_eq s, ?_⟩
    rw [hconfig, hresult]
    exact (Effect.encryptOneChar x).exec_eq s'

end Sys2Proof.Machine

/-! PROOFS. The cipher path at fixed offsets: the rotor substitutions undo each other (R123), and the nine
substitutions are the reflector seen through plugboard and forward cascade (R128). -/

namespace Sys2Proof.Machine

/-! ### The rotors -/

section
variable {s : State} (hw : s.rom.wf = true)
include hw

/-- The offset subtracted by `fwd` is the one added back by `inv`, and the inverse table undoes the forward one. -/
theorem inv_fwd (k : Slot) (x : Symbol) : inv s k (fwd s k x) = x := by
  rw [inv_eq, fwd_eq, sub_add_cancel, ((wiringWf_iff_lawful _).mp hw).inverse_forward, add_sub_cancel_right]

theorem fwd_inv (k : Slot) (y : Symbol) : fwd s k (inv s k y) = y := by
  rw [fwd_eq, inv_eq, sub_add_cancel, ((wiringWf_iff_lawful _).mp hw).forward_inverse, add_sub_cancel_right]

theorem cascadeInv_cascadeFwd (x : Symbol) : cascadeInv s (cascadeFwd s x) = x := by
  simp only [cascadeInv, cascadeFwd, inv_fwd hw]

theorem cascadeFwd_cascadeInv (y : Symbol) : cascadeFwd s (cascadeInv s y) = y := by
  simp only [cascadeInv, cascadeFwd, fwd_inv hw]
end

/-- The forward pass reads the ROM and the rotors. -/
theorem cascadeFwd_congr {s s' : State} (hr : s.rom = s'.rom) (hc : s.config = s'.config) (x : Symbol) :
    cascadeFwd s x = cascadeFwd s' x := by
  have hP (m : ModelId) (i : Symbol) : s.rom.romP m i = s'.rom.romP m i := by rw [hr]
  simp only [cascadeFwd, fwd_congr_of_romP hc hP]

/-! ### The nine substitutions -/

section
variable {s : State} (hs : s.Inv)
include hs

theorem plug_plug (x : Symbol) : s.plug (s.plug x) = x := hs.config_inv.plug_involutive x

/-- `σ`, the way from the keyboard to the reflector: plugboard, then forward cascade (R128). -/
theorem cascadeFwd_plug_injective : Function.Injective fun y => cascadeFwd s (s.plug y) :=
  have hcascade : Function.LeftInverse (cascadeInv s) (cascadeFwd s) := cascadeInv_cascadeFwd hs.rom_wf
  have hplug : Function.Involutive s.plug := plug_plug hs
  hcascade.injective.comp hplug.injective

/-- The return pass undoes `σ`, so `σ` carries the substitutions to the reflector. -/
theorem cascadeFwd_plug_substitute (x : Symbol) :
    cascadeFwd s (s.plug (substitute s x)) = s.rom.romRef (cascadeFwd s (s.plug x)) := by
  rw [substitute, plug_plug hs, cascadeFwd_cascadeInv hs.rom_wf]

theorem substitute_involutive : Function.Involutive (substitute s) := fun x =>
  cascadeFwd_plug_injective hs <| by
    simp only [cascadeFwd_plug_substitute hs, ((wiringWf_iff_lawful _).mp hs.rom_wf).reflector_involutive]

/-- A letter encrypted to itself would be a fixed point of the reflector. -/
theorem substitute_ne (x : Symbol) : substitute s x ≠ x := by
  intro hfix
  have hrefl := cascadeFwd_plug_substitute hs x
  rw [hfix] at hrefl
  exact ((wiringWf_iff_lawful _).mp hs.rom_wf).reflector_no_fixed_point _ hrefl.symm

/-- `STEP()` writes neither the ROM nor the plugboard. -/
theorem stepRotors_inv : (stepRotors s).Inv where
  rom_wf := (stepRotors_rom s).symm ▸ hs.rom_wf
  config_inv := (configurationInv_iff _).mpr ((stepRotors_configPlug s).symm ▸ hs.config_inv.plug_involutive)
end

/-! ### ENCRYPT_ONE_CHAR as a command and as a command word -/

/-- A legal ENCRYPT_ONE_CHAR steps, and answers the substitutions at the stepped offsets (R127). -/
theorem exec_encryptOneChar (x : Symbol) (s : State) :
    exec (.encryptOneChar x.val) s =
      .next (s.after (stepRotors s).config (okResponse (substitute (stepRotors s) x).val)) := by
  rw [← responseWord_ok_symbol]
  exact (Effect.encryptOneChar x).exec_eq s

/-- A transaction with the word of a command is the command. -/
theorem transact_encode {W : Wiring} (hW : W.wf = true) {i : Instr} (hi : i.wellFormed = true) {c c' : Configuration}
    {r : Word} (h : exec i ⟨W, c, [], []⟩ = .next (State.after ⟨W, c, [], []⟩ c' r)) :
    transact W c (encode i) = some (c', r) := by
  have hstep : stepMachine ⟨W, c, [.command (encode i)], []⟩ = .next ⟨W, c', [], [r]⟩ :=
    (step_command (s := ⟨W, c, [.command (encode i)], []⟩) hW rfl).trans
      ((performWord_of_decode (decode_encode hi) _).trans h)
  simp [transact, hstep, nextState?]

theorem encryptOneChar_wellFormed (x : Symbol) : (Instr.encryptOneChar x.val).wellFormed = true :=
  fitsSymbolField_iff.mpr (by omega)

/-- A run that encrypts one symbol more: the keystroke, then the run from the stepped configuration. -/
theorem runStream_encryptWords_cons {W : Wiring} (hW : W.wf = true) {c c' : Configuration} (x : Symbol)
    {xs : List Symbol} {rs : List Word}
    (h : runStream W (stepRotors ⟨W, c, [], []⟩).config (encryptWords xs) = some (c', rs)) :
    runStream W c (encryptWords (x :: xs)) =
      some (c', okResponse (substitute (stepRotors ⟨W, c, [], []⟩) x).val :: rs) := by
  have hkey := transact_encode hW (encryptOneChar_wellFormed x) (exec_encryptOneChar x ⟨W, c, [], []⟩)
  rw [encryptWords] at h
  simp [encryptWords, runStream, hkey, h]

end Sys2Proof.Machine

/-! PROOFS. The statements of spec/43_cipher_path.md. -/

namespace Sys2Proof.Machine

/-- Settles O20: the effect of a command reads the ROM and the configuration, and nothing else. -/
theorem commandSeesOnlyConfigurationAndWiring : Obligations.CommandSeesOnlyConfigurationAndWiring := by
  unfold Obligations.CommandSeesOnlyConfigurationAndWiring
  exact fun i s s' hrom hconfig => exec_congr i hrom hconfig

/-- Settles O35: the DATA of the effect is the nine substitutions at the stepped offsets. -/
theorem encryptMeaning : Obligations.EncryptMeaning := by
  unfold Obligations.EncryptMeaning
  refine ⟨fun s x => ?legal,
    fun s a ha => exec_invalidSymbol (i := .encryptOneChar a) (isSym_eq_false_iff.mpr ha) rfl s⟩
  case legal =>
    refine ⟨_, exec_encryptOneChar x s, rfl, stepRotors_model s, stepRotors_configPlug s, rfl, ?_⟩
    simp only [substitute, cascadeFwd, cascadeInv, fwd_eq, inv_eq, stepRotors_rom, stepRotors_model, stepRotors_plug]
    rfl

/-- Settles O38: a map with an inverse on both sides is a bijection. -/
theorem rotorSubstitutionsMutuallyInverse : Obligations.RotorSubstitutionsMutuallyInverse := by
  unfold Obligations.RotorSubstitutionsMutuallyInverse
  intro s k hw
  have hinv : Function.LeftInverse (inv s k) (fwd s k) := inv_fwd hw k
  have hfwd : Function.RightInverse (inv s k) (fwd s k) := fwd_inv hw k
  exact ⟨⟨hinv.injective, hfwd.surjective⟩, ⟨hfwd.injective, hinv.surjective⟩, hinv, hfwd⟩

/-- Settles O39: `E` is the nine substitutions at the stepped offsets, which keep the invariants. -/
theorem encryptionIsFixedPointFreeInvolution : Obligations.EncryptionIsFixedPointFreeInvolution := by
  unfold Obligations.EncryptionIsFixedPointFreeInvolution
  intro s hs
  have ht := stepRotors_inv hs
  refine ⟨substitute (stepRotors s), (stepRotors s).config, fun x => exec_encryptOneChar x s, ?conjugate,
    (substitute_involutive ht).bijective, substitute_involutive ht, substitute_ne ht⟩
  case conjugate =>
    have hσ (y : Symbol) : cascadeFwd (s.after (stepRotors s).config 0#32) (s.plug y) =
        cascadeFwd (stepRotors s) ((stepRotors s).plug y) := by
      rw [stepRotors_plug]
      exact cascadeFwd_congr (s := s.after (stepRotors s).config 0#32) (stepRotors_rom s).symm rfl _
    intro σ x
    simpa only [σ, hσ, stepRotors_rom] using cascadeFwd_plug_substitute ht x

/-- Settles O40, by induction on the message: both runs step alike, and at each keystroke the substitutions undo
themselves. -/
theorem decryptionRecoversTheMessage : Obligations.DecryptionRecoversTheMessage := by
  unfold Obligations.DecryptionRecoversTheMessage
  intro W c message hW hc
  induction message generalizing c with
  | nil => exact ⟨c, [], rfl, rfl⟩
  | cons x xs ih =>
    have ht : (stepRotors ⟨W, c, [], []⟩).Inv := stepRotors_inv ⟨hW, hc⟩
    obtain ⟨c', ys, henc, hdec⟩ := ih _ ht.config_inv
    refine ⟨c', substitute (stepRotors ⟨W, c, [], []⟩) x :: ys, runStream_encryptWords_cons hW x henc, ?_⟩
    rw [runStream_encryptWords_cons hW _ hdec, substitute_involutive ht, List.map_cons]

end Sys2Proof.Machine

/-! PROOFS. The rotor commands with an illegal operand (R141, R162). -/

namespace Sys2Proof.Machine

theorem isModel_eq_false_iff {v : Nat} : isModel v = false ↔ ¬ (1 ≤ v ∧ v ≤ 5) := decide_eq_false_iff_not

theorem isSlot_eq_false_iff {v : Nat} : isSlot v = false ↔ v = 0 ∨ 3 < v := by
  rw [isSlot, decide_eq_false_iff_not]
  omega

/-- R160, R162: a rotor command with an illegal operand answers ConfigurationError and writes nothing. -/
theorem exec_configurationError {i : Instr} (illegal : operandsLegal i = false)
    (errorClass : operandErrorClass i = some .configurationError) (s : State) :
    exec i s = .next (s.after s.config 0x00000001#32) :=
  (Effect.rejected illegal errorClass).exec_eq s

end Sys2Proof.Machine

/-! PROOFS. The statements of spec/44_configuration.md. -/

namespace Sys2Proof.Machine

/-- Settles O31: the effect replaces the three rotor instances, and one illegal operand among the six rejects all. -/
theorem configureMachineMeaning : Obligations.ConfigureMachineMeaning := by
  unfold Obligations.ConfigureMachineMeaning
  refine ⟨fun s m1 m2 m3 p1 p2 p3 => (Effect.configureMachine m1 m2 m3 p1 p2 p3).exec_eq s,
    fun s m1 p1 m2 p2 m3 p3 hillegal => ?illegal⟩
  case illegal =>
    refine exec_configurationError ?_ rfl s
    simpa only [operandsLegal, Bool.and_eq_false_iff, isModel_eq_false_iff, isSym_eq_false_iff, or_assoc]
      using hillegal

/-- Settles O32: slot by slot, the effect sets the offset beside the slot's own model. -/
theorem setRotorMeaning : Obligations.SetRotorMeaning := by
  unfold Obligations.SetRotorMeaning
  refine ⟨fun s p => ⟨(Effect.setRotor .one p).exec_eq s, (Effect.setRotor .two p).exec_eq s,
    (Effect.setRotor .three p).exec_eq s⟩, fun s slot pos hillegal => ?illegal⟩
  case illegal =>
    refine exec_configurationError ?_ rfl s
    simpa only [operandsLegal, Bool.and_eq_false_iff, isSlot_eq_false_iff, isSym_eq_false_iff, or_assoc]
      using hillegal

/-- Settles O33: the DATA of the effect is the slot's offset, written as a response word. -/
theorem getRotorPosMeaning : Obligations.GetRotorPosMeaning := by
  unfold Obligations.GetRotorPosMeaning
  have legal (s : State) (k : Slot) :
      exec (.getRotorPos (slotNumber k)) s = .next (s.after s.config (okResponse (s.off k).val)) := by
    rw [← responseWord_ok_symbol]
    exact (Effect.getRotorPos k).exec_eq s
  exact ⟨fun s => ⟨legal s .one, legal s .two, legal s .three⟩,
    fun s slot hslot => exec_configurationError (i := .getRotorPos slot) (isSlot_eq_false_iff.mpr hslot) rfl s⟩

end Sys2Proof.Machine

/-! PROOFS. Errors (R160 to R166): which commands are rejected, what a rejection leaves, and a run that meets one. -/

namespace Sys2Proof.Machine

theorem ErrorClass.status_ne_ok (e : ErrorClass) : e.status ≠ .ok := by cases e <;> decide

/-- The response of an error is its status code alone (R15, R70). -/
theorem responseWord_error (e : ErrorClass) : responseWord e.status 0#5 = BitVec.ofNat 32 e.status.code.toNat := by
  cases e <;> rfl

section
variable {i : Instr} {status : Status} {data : State → BitVec 5} {edit : State → State}

/-- R160: legal operands complete with OK, and illegal ones write nothing and answer their class with DATA 0. -/
theorem Effect.completed_or_rejected (h : Effect i status data edit) :
    (operandsLegal i = true ∧ status = .ok) ∨
    (operandsLegal i = false ∧ edit = id ∧ data = (fun _ => 0#5) ∧
      ∃ e, operandErrorClass i = some e ∧ status = e.status) := by
  cases h with
  | rejected illegal errorClass => exact .inr ⟨illegal, rfl, rfl, _, errorClass, rfl⟩
  | _ => exact .inl ⟨by simp [operandsLegal, isSym_eq_isSome, isModel_eq_isSome, isSlot_eq_isSome], rfl⟩

theorem Effect.status_eq_ok_iff (h : Effect i status data edit) : status = .ok ↔ operandsLegal i = true := by
  obtain ⟨legal, hok⟩ | ⟨illegal, -, -, e, -, rfl⟩ := h.completed_or_rejected
  · exact iff_of_true hok legal
  · exact iff_of_false e.status_ne_ok (Bool.eq_false_iff.mp illegal)

theorem Effect.edit_of_error (h : Effect i status data edit) (hstatus : status ≠ .ok) : edit = id := by
  obtain ⟨-, hok⟩ | ⟨-, hedit, -⟩ := h.completed_or_rejected
  · exact absurd hok hstatus
  · exact hedit
end

/-- A word answered with an error, illegal or of a command, leaves the configuration (R160, R163). -/
theorem performWord_config_of_error {w r : Word} {s : State} {c : Configuration}
    (h : performWord w s = .next (s.after c r)) (hr : statusOf r ≠ .ok) : c = s.config := by
  cases hd : decode w with
  | command i =>
    obtain ⟨status, data, edit, hi, he⟩ := exec_eq_after i
    rw [performWord_of_decode hd, he] at h
    obtain ⟨rfl, rfl⟩ := after_inj _ (Host.Outcome.next.inj h)
    rw [statusOf_responseWord] at hr
    rw [hi.edit_of_error hr, id_eq]
  | illegal _ =>
    rw [performWord_of_illegal hd] at h
    exact (after_inj _ (Host.Outcome.next.inj h)).1.symm

/-- A transaction is one performed word, and only a WIRING that may run has transactions (R48). -/
theorem performWord_of_transact {W : Wiring} {c c' : Configuration} {w r : Word} (h : transact W c w = some (c', r)) :
    performWord w ⟨W, c, [], []⟩ = .next (State.after ⟨W, c, [], []⟩ c' r) := by
  by_cases hW : W.wf = true
  · obtain ⟨d, q, ht, hstep⟩ := transact_eq_step hW c w
    cases ht.symm.trans h
    exact (step_command (s := ⟨W, c, [.command w], []⟩) hW rfl).symm.trans (hstep [] [])
  · simp [transact, stepMachine, hW, nextState?] at h

theorem runStream_cons_of_transact {W : Wiring} {c c' : Configuration} {w r : Word}
    (h : transact W c w = some (c', r)) (ws : List Word) :
    runStream W c (w :: ws) = (runStream W c' ws).map fun p => (p.1, r :: p.2) := by
  rw [runStream, h]
  rfl

theorem errorFree_cons (r : Word) (rs : List Word) : errorFree (r :: rs) ↔ statusOf r = .ok ∧ errorFree rs :=
  List.forall_mem_cons

/-- A step of one block among several is its own step, put back in its place. -/
theorem stepInstance_eq_next {before after : List State} {k : Fin before.length}
    (h : stepInstance before k = .next after) :
    ∃ t, step before[k.val] = .next t ∧ after = before.set k.val t := by
  unfold stepInstance at h
  split at h
  next t ht =>
    cases h
    exact ⟨t, ht, rfl⟩
  all_goals cases h

end Sys2Proof.Machine

/-! PROOFS. The statements of spec/60_exceptions.md. -/

namespace Sys2Proof.Machine

/-- Settles O7: a word with illegal bits decodes to no command, and performing it raises IllegalCommand. -/
theorem stepRejectsIllegalWord : Obligations.StepRejectsIllegalWord := by
  unfold Obligations.StepRejectsIllegalWord
  intro s w rest hw hi hbits
  obtain ⟨reason, hd⟩ := (illegalWordsAreExactlyThoseOfTheRules w).mpr hbits
  exact (step_command hw hi).trans (performWord_of_illegal hd _)

/-- Settles O16: the effect of a command is completed or rejected, as its operands say. -/
theorem commandSucceedsOrChangesNothing : Obligations.CommandSucceedsOrChangesNothing := by
  unfold Obligations.CommandSucceedsOrChangesNothing
  intro i s
  obtain ⟨status, data, edit, h, he⟩ := exec_eq_after i
  refine ⟨_, _, he s, fun legal => ?completed, fun illegal => ?rejected⟩
  case completed => rw [statusOf_responseWord, h.status_eq_ok_iff.mpr legal]
  case rejected =>
    obtain ⟨legal, -⟩ | ⟨-, rfl, rfl, e, hclass, rfl⟩ := h.completed_or_rejected
    · exact absurd legal (Bool.eq_false_iff.mp illegal)
    · exact ⟨rfl, e, hclass, responseWord_error e⟩

/-- Settles O24: the rejected word leaves the configuration, so the further words run from where they would have
without it. -/
theorem rejectedCommandLeavesNoTrace : Obligations.RejectedCommandLeavesNoTrace := by
  unfold Obligations.RejectedCommandLeavesNoTrace
  intro W c c' w r ws ht hr
  have hc : c' = c := performWord_config_of_error (performWord_of_transact ht) hr
  subst hc
  exact ⟨rfl, runStream_cons_of_transact ht ws⟩

/-- Settles O25, by induction on the commands: each response is OK exactly when its command's operands are legal. -/
theorem streamIsErrorFreeIffOperandsLegal : Obligations.StreamIsErrorFreeIffOperandsLegal := by
  unfold Obligations.StreamIsErrorFreeIffOperandsLegal
  intro W c is hW hwf
  induction is generalizing c with
  | nil => exact ⟨c, [], rfl, by simp [errorFree]⟩
  | cons i is ih =>
    obtain ⟨hi, his⟩ := List.forall_mem_cons.mp hwf
    obtain ⟨status, data, edit, h, he⟩ := exec_eq_after i
    have ht := transact_encode hW hi (he ⟨W, c, [], []⟩)
    obtain ⟨c', rs, hrun, hfree⟩ := ih (edit ⟨W, c, [], []⟩).config his
    refine ⟨c', _ :: rs, by rw [List.map_cons, runStream_cons_of_transact ht, hrun]; rfl, ?_⟩
    rw [errorFree_cons, statusOf_responseWord, h.status_eq_ok_iff, hfree, List.forall_mem_cons]

/-- Settles O49: the list after the step differs from the one before at the stepped block alone. -/
theorem instancesAreIndependent : Obligations.InstancesAreIndependent := by
  unfold Obligations.InstancesAreIndependent
  intro before after k h
  obtain ⟨t, ht, rfl⟩ := stepInstance_eq_next h
  exact ⟨List.length_set, ⟨t, ht, List.getElem?_set_self k.isLt⟩, fun j hj => List.getElem?_set_ne hj.symm⟩

end Sys2Proof.Machine

/-! PROOFS. Rotor and plugboard commands (R88, R146, R185): each keeps to its own half of the configuration. -/

namespace Sys2Proof.Machine

section
variable {i j : Instr} {status status' : Status} {data data' : State → BitVec 5} {edit edit' : State → State}
  {s s' : State}

/-- R146: a rotor command leaves the plugboard alone. -/
theorem Effect.rotor_edit_configPlug (h : Effect i status data edit) (hi : isRotorCommand i = true) (s : State) :
    (edit s).config.plug = s.config.plug := by
  cases h with
  | rejected | configureMachine | getRotorPos => rfl
  | setRotor k => exact withRotor_plug _ k _
  | _ => cases hi

/-- R88: a plugboard command touches no rotor. -/
theorem Effect.plugboard_edit_rotor (h : Effect i status data edit) (hi : isPlugboardCommand i = true) (s : State)
    (k : Slot) : (edit s).config.rotor k = s.config.rotor k := by
  cases h with
  | configureMachine | encryptOneChar | getRotorPos | setRotor => cases hi
  | _ => rfl

/-- The rotors a rotor command leaves depend on the rotors it finds, and not on the plugboard. -/
theorem Effect.rotor_edit_rotor_congr (h : Effect i status data edit) (hi : isRotorCommand i = true)
    (hr : ∀ k, s.config.rotor k = s'.config.rotor k) (k : Slot) :
    (edit s).config.rotor k = (edit s').config.rotor k := by
  cases h with
  | rejected | getRotorPos => exact hr k
  | configureMachine => cases k <;> rfl
  | setRotor j o =>
    by_cases hk : k = j
    · subst hk
      simp [State.model, hr]
    · simp [withRotor_rotor_ne _ _ hk, hr]
  | _ => cases hi

/-- A rotor command `i` and a plugboard command `j` leave the same configuration in either order: the rotors are those
`i` leaves in `s`, and the plugboard is the one `j` leaves in `s`. -/
theorem Effect.rotor_plugboard_config_comm (h : Effect i status data edit) (h' : Effect j status' data' edit')
    (hi : isRotorCommand i = true) (hj : isPlugboardCommand j = true) {t t' : State}
    (ht : t.config = (edit s).config) (ht' : t'.config = (edit' s).config) :
    (edit' t).config = (edit t').config := by
  refine configuration_ext (fun k => ?rotor) fun x => congrArg (Table.lookup · x) ?plug
  case rotor =>
    calc (edit' t).config.rotor k
      _ = (edit s).config.rotor k := by rw [h'.plugboard_edit_rotor hj, ht]
      _ = (edit t').config.rotor k :=
        h.rotor_edit_rotor_congr hi (fun k => by rw [ht', h'.plugboard_edit_rotor hj]) k
  case plug =>
    calc (edit' t).config.plug
      _ = (edit' s).config.plug := (h'.plugboard_congr hj (by rw [ht, h.rotor_edit_configPlug hi])).2
      _ = (edit t').config.plug := by rw [h.rotor_edit_configPlug hi, ht']
end

end Sys2Proof.Machine

/-! PROOFS. What is reset (R180), and the two command words of the software reset (R183). -/

namespace Sys2Proof.Machine

/-- R180, piece by piece. -/
theorem resetValues_of_config {s : State} (h : s.config = Configuration.reset) :
    s.model .one = .i ∧ s.model .two = .ii ∧ s.model .three = .iii ∧ (∀ k, s.off k = 0) ∧ ∀ x, s.plug x = x := by
  simp only [State.model, State.off, State.plug, h]
  exact ⟨configurationReset_model_one, configurationReset_model_two, configurationReset_model_three,
    configurationReset_off, lookup_identity⟩

section
variable {W : Wiring} (hW : W.wf = true)
include hW

/-- The word 0x00302011 is CONFIGURE_MACHINE 1,0,2,0,3,0: the rotors take their reset values. -/
theorem transact_configureMachine_reset (c : Configuration) :
    transact W c 0x00302011#32 = some ({ Configuration.reset with plug := c.plug }, 0x00000000#32) :=
  transact_encode (i := .configureMachine 1 0 2 0 3 0) hW (by decide)
    ((Effect.configureMachine .i .ii .iii 0 0 0).exec_eq _)

/-- The word 0x00000007 is CLEAR_PLUGBOARD: the plugboard takes its reset value. -/
theorem transact_clearPlugboard (c : Configuration) :
    transact W c 0x00000007#32 = some ({ c with plug := Table.identity }, 0x00000000#32) :=
  transact_encode (i := .clearPlugboard) hW rfl (Effect.clearPlugboard.exec_eq _)
end

theorem runStream_pair {W : Wiring} {c c₁ c₂ : Configuration} {w₁ w₂ r₁ r₂ : Word}
    (h₁ : transact W c w₁ = some (c₁, r₁)) (h₂ : transact W c₁ w₂ = some (c₂, r₂)) :
    runStream W c [w₁, w₂] = some (c₂, [r₁, r₂]) := by
  rw [runStream_cons_of_transact h₁, runStream_cons_of_transact h₂]
  rfl

end Sys2Proof.Machine

/-! PROOFS. The statements of spec/70_reset_and_hazards.md. -/

namespace Sys2Proof.Machine

/-- Settles O22: each command answers as it would without the other, and their edits keep to different halves of the
configuration. -/
theorem rotorAndPlugboardCommandsCommute : Obligations.RotorAndPlugboardCommandsCommute := by
  unfold Obligations.RotorAndPlugboardCommandsCommute
  intro i j s hi hj
  obtain ⟨status, data, edit, h, he⟩ := exec_eq_after i
  obtain ⟨status', data', edit', h', he'⟩ := exec_eq_after j
  have hdata (r : Word) : data (s.after (edit' s).config r) = data s :=
    (h.rotor_congr (s := s.after (edit' s).config r) hi
      fun k => congrArg Rotor.off (h'.plugboard_edit_rotor hj s k)).1
  have hdata' (r : Word) : data' (s.after (edit s).config r) = data' s :=
    (h'.plugboard_congr (s := s.after (edit s).config r) hj (h.rotor_edit_configPlug hi s)).1
  refine ⟨_, _, _, _, responseWord status' (data' s), he s, hdata' _ ▸ he' _, he' s, ?_⟩
  rw [he, hdata, h.rotor_plugboard_config_comm h' hi hj (after_config ..) (after_config ..)]

/-- Settles O23: each SET_PLUG joins its two symbols, and the second unplugs the partner `a` has by then, `b`. -/
theorem laterSetPlugTakesThePartner : Obligations.LaterSetPlugTakesThePartner := by
  unfold Obligations.LaterSetPlugTakesThePartner
  intro s a b c hab hac hbc
  have joined {x y : Symbol} (hxy : x ≠ y) (s : State) : ∃ t, exec (.setPlug x.val y.val) s = .next t ∧
      ∀ z, t.plug z = (joinPair x y s).plug z := ⟨_, (Effect.setPlugPair hxy).exec_eq s, fun _ => rfl⟩
  obtain ⟨t, ht, htplug⟩ := joined hab s
  obtain ⟨u, hu, huplug⟩ := joined hac t
  have hta : t.plug a = b := by simp [htplug, joinPair_plug hab]
  refine ⟨t, u, ht, hu, hta, ?_, ?_, ?_, ?_⟩
  · simp [htplug, joinPair_plug hab, hab.symm]
  · simp [huplug, joinPair_plug hac]
  · simp [huplug, joinPair_plug hac, hac.symm]
  · simp [huplug, joinPair_plug hac, hab.symm, hbc, hta]

/-- Settles O45: one word resets the rotors and the other the plugboard. -/
theorem softwareResetReachesResetConfiguration : Obligations.SoftwareResetReachesResetConfiguration := by
  unfold Obligations.SoftwareResetReachesResetConfiguration
  exact fun W c hW =>
    ⟨runStream_pair (transact_configureMachine_reset hW c) (transact_clearPlugboard hW _),
      runStream_pair (transact_clearPlugboard hW c) (transact_configureMachine_reset hW _)⟩

/-- Settles O8: the reset input and power-up both leave the reset configuration. -/
theorem resetSetsEveryPieceOfState : Obligations.ResetSetsEveryPieceOfState := by
  unfold Obligations.ResetSetsEveryPieceOfState
  refine ⟨fun s rest hw hi => ?resetInput, resetValues_of_config reset_config⟩
  case resetInput =>
    obtain ⟨hone, htwo, hthree, hoff, hplug⟩ := resetValues_of_config (takeReset_config { s with inputs := rest })
    exact ⟨_, step_reset hw hi, hone, htwo, hthree, hoff, hplug, rfl, rfl, rfl⟩

/-- Settles O41: the encryption leaves the offsets of `STEP()`, and GET_ROTOR_POS answers the offset it finds. -/
theorem positionReadAfterEncryptionIsStepped : Obligations.PositionReadAfterEncryptionIsStepped := by
  unfold Obligations.PositionReadAfterEncryptionIsStepped
  intro s x r1AtNotch r2AtNotch
  obtain ⟨t, ht, hone, htwo, htwo', hthree, hthree'⟩ := encryptStepsRotors s x
  obtain ⟨hread1, hread2, hread3⟩ := getRotorPosMeaning.1 t
  refine ⟨t, ht, hone ▸ hread1, ?slotTwo, ?slotThree⟩
  case slotTwo =>
    split_ifs with hnotch
    · exact htwo hnotch ▸ hread2
    · obtain ⟨hno1, hno2⟩ := not_or.mp hnotch
      exact htwo' hno1 hno2 ▸ hread2
  case slotThree =>
    split_ifs with hnotch
    · exact hthree hnotch ▸ hread3
    · exact hthree' hnotch ▸ hread3

end Sys2Proof.Machine
